-- ==== Sys2Proof/Word.lean ====
section
/-! DEFINITION. The value types of spec/00_scope.md rules R9, R12 and R13: bytes, 32-bit words, the
128-bit counter, the 16-byte block, the 4-byte column (the key schedule's word) and the round-key
schedule. Nothing here computes; what computes on these types stands under Sys2Proof/Machine/. -/

namespace Sys2Proof

/-- `Byte` of R13: an unsigned 8-bit integer. -/
abbrev Byte := BitVec 8

/-- `Word32` of R13: an unsigned 32-bit integer. -/
abbrev Word := BitVec 32

/-- The CTR-mode counter of R38: an unsigned 128-bit integer, so addition wraps mod 2^128. -/
abbrev Counter := BitVec 128

/-- `Block` of R13: a byte string of length exactly 16, byte 0 first. -/
abbrev Block := Vector Byte 16

/-- A 4-byte column of the state matrix (R14) or a 4-byte word `w[i]` of the key schedule (R200). -/
abbrev Column := Vector Byte 4

/-- The 11 round keys `RK[0..10]` of R33. -/
abbrev Schedule := Vector Block 11

/-- 16 bytes 0x00. -/
def Block.zero : Block := Vector.replicate 16 0

/-- 4 bytes 0x00. -/
def Column.zero : Column := Vector.replicate 4 0

/-- 176 bytes 0x00. -/
def Schedule.zero : Schedule := Vector.replicate 11 Block.zero

end Sys2Proof
end

