-- ==== Sys2Proof/Syntax.lean ====
section
/-! DEFINITION. The 28 commands of spec/30_encoding.md rule R109 (spec/opcode_table.json), one
constructor per row. SRC, DST and LEN are implicit operands (R106) and stand in State. -/

namespace Sys2Proof

/-- A command. `ridx` is the round-key index of R102 (4 bits, legal 0..10), `imm8` the byte operand of R103. -/
inductive Instr where
  | nop
  | keyld
  | rdrk (ridx : BitVec 4)
  | sbox (imm8 : Byte)
  | isbox (imm8 : Byte)
  | ldst
  | stst
  | subb
  | isubb
  | shr
  | ishr
  | mixc
  | imixc
  | ark (ridx : BitVec 4)
  | encb
  | decb
  | cfgecb
  | cfgcbc
  | cfgctr
  | setiv
  | getiv
  | rdctr
  | ecbenc
  | ecbdec
  | cbcenc
  | cbcdec
  | ctrenc
  | ctrdec
  deriving DecidableEq, Repr

/-- The command's name in spec/opcode_table.json. -/
def Instr.mnemonic : Instr → String
  | .nop => "NOP"
  | .keyld => "KEYLD"
  | .rdrk _ => "RDRK"
  | .sbox _ => "SBOX"
  | .isbox _ => "ISBOX"
  | .ldst => "LDST"
  | .stst => "STST"
  | .subb => "SUBB"
  | .isubb => "ISUBB"
  | .shr => "SHR"
  | .ishr => "ISHR"
  | .mixc => "MIXC"
  | .imixc => "IMIXC"
  | .ark _ => "ARK"
  | .encb => "ENCB"
  | .decb => "DECB"
  | .cfgecb => "CFGECB"
  | .cfgcbc => "CFGCBC"
  | .cfgctr => "CFGCTR"
  | .setiv => "SETIV"
  | .getiv => "GETIV"
  | .rdctr => "RDCTR"
  | .ecbenc => "ECBENC"
  | .ecbdec => "ECBDEC"
  | .cbcenc => "CBCENC"
  | .cbcdec => "CBCDEC"
  | .ctrenc => "CTRENC"
  | .ctrdec => "CTRDEC"

end Sys2Proof
end

