-- ==== Sys2Proof/WellFormed.lean ====
section
/-! DEFINITION. The operand check that the types of Syntax.lean do not make: a round-key index is 0..10
(spec/30_encoding.md rule R102). -/

namespace Sys2Proof

/-- R102: "Legal values are 0..10, naming RK[0] to RK[10]." -/
def ridxLegal (ridx : BitVec 4) : Bool := decide (ridx.toNat ≤ 10)

/-- A command the encoding of R109 can name. Every other field's width is its type's. -/
def Instr.wellFormed : Instr → Bool
  | .rdrk r => ridxLegal r
  | .ark r => ridxLegal r
  | .nop | .keyld | .sbox _ | .isbox _ | .ldst | .stst | .subb | .isubb | .shr | .ishr | .mixc | .imixc
  | .encb | .decb | .cfgecb | .cfgcbc | .cfgctr | .setiv | .getiv | .rdctr | .ecbenc | .ecbdec | .cbcenc
  | .cbcdec | .ctrenc | .ctrdec => true

end Sys2Proof
end

