-- ==== Sys2Proof/Decode.lean ====
section
/-! DEFINITION. Decoding a 32-bit command word (spec/30_encoding.md rules R100 to R111), total, each
illegal word rejected by the clause of R110 that it falls under; the encoder, written from the same
table; and the mask and match table of R109. -/

namespace Sys2Proof

/-- Why a word is illegal: the clauses (a) to (e) of R110. Where several hold, the decoder names the
first in the order it checks; the engine reports ILLEGAL_COMMAND for each of them alike. -/
inductive IllegalWord where
  /-- R110(a): OPC is unassigned. -/
  | unassignedOpcode
  /-- R110(b): RSV ≠ 0. -/
  | reservedBits
  /-- R110(c): RIDX ≠ 0 in a command other than ARK and RDRK. -/
  | strayRidx
  /-- R110(d): IMM8 ≠ 0 in a command other than SBOX and ISBOX. -/
  | strayImm8
  /-- R110(e): RIDX > 10 in ARK or RDRK. -/
  | ridxOutOfRange
  deriving DecidableEq, Repr

/-- The result of `decode`: a command, or why there is none. -/
abbrev Decoded := Except IllegalWord Instr

/-- The fields of the one format (R101). -/
def opcField (w : Word) : Byte := w.extractLsb' 24 8
def ridxField (w : Word) : BitVec 4 := w.extractLsb' 20 4
def rsvField (w : Word) : BitVec 12 := w.extractLsb' 8 12
def imm8Field (w : Word) : Byte := w.extractLsb' 0 8

/-- A command that uses neither RIDX nor IMM8: both must be 0 (R105). -/
def decodePlain (i : Instr) (w : Word) : Decoded :=
  if rsvField w ≠ 0 then .error .reservedBits
  else if ridxField w ≠ 0 then .error .strayRidx
  else if imm8Field w ≠ 0 then .error .strayImm8
  else .ok i

/-- A command with a round-key index: IMM8 must be 0 and RIDX at most 10 (R102, R105). -/
def decodeIndexed (mk : BitVec 4 → Instr) (w : Word) : Decoded :=
  if rsvField w ≠ 0 then .error .reservedBits
  else if imm8Field w ≠ 0 then .error .strayImm8
  else if ridxLegal (ridxField w) then .ok (mk (ridxField w))
  else .error .ridxOutOfRange

/-- A command with a byte operand: RIDX must be 0 (R103, R105). -/
def decodeByte (mk : Byte → Instr) (w : Word) : Decoded :=
  if rsvField w ≠ 0 then .error .reservedBits
  else if ridxField w ≠ 0 then .error .strayRidx
  else .ok (mk (imm8Field w))

/-- `Decode` of R111, by the opcode map of R108. A pure function of the 32 bits. -/
def decode (w : Word) : Decoded :=
  match (opcField w).toNat with
  | 0x00 => decodePlain .nop w
  | 0x10 => decodePlain .keyld w
  | 0x11 => decodeIndexed .rdrk w
  | 0x20 => decodeByte .sbox w
  | 0x21 => decodeByte .isbox w
  | 0x30 => decodePlain .ldst w
  | 0x31 => decodePlain .stst w
  | 0x32 => decodePlain .subb w
  | 0x33 => decodePlain .isubb w
  | 0x34 => decodePlain .shr w
  | 0x35 => decodePlain .ishr w
  | 0x36 => decodePlain .mixc w
  | 0x37 => decodePlain .imixc w
  | 0x38 => decodeIndexed .ark w
  | 0x40 => decodePlain .encb w
  | 0x41 => decodePlain .decb w
  | 0x50 => decodePlain .cfgecb w
  | 0x51 => decodePlain .cfgcbc w
  | 0x52 => decodePlain .cfgctr w
  | 0x53 => decodePlain .setiv w
  | 0x54 => decodePlain .getiv w
  | 0x55 => decodePlain .rdctr w
  | 0x60 => decodePlain .ecbenc w
  | 0x61 => decodePlain .ecbdec w
  | 0x62 => decodePlain .cbcenc w
  | 0x63 => decodePlain .cbcdec w
  | 0x64 => decodePlain .ctrenc w
  | 0x65 => decodePlain .ctrdec w
  | _ => .error .unassignedOpcode

/-! The encoder. -/

/-- The four fields of R101 put together, OPC first. -/
def commandWord (opc : Byte) (ridx : BitVec 4) (imm8 : Byte) : Word :=
  opc ++ ridx ++ (0 : BitVec 12) ++ imm8

/-- The word of a command, from the OPC column of R108. -/
def encode : Instr → Word
  | .nop => commandWord 0x00 0 0
  | .keyld => commandWord 0x10 0 0
  | .rdrk r => commandWord 0x11 r 0
  | .sbox a => commandWord 0x20 0 a
  | .isbox a => commandWord 0x21 0 a
  | .ldst => commandWord 0x30 0 0
  | .stst => commandWord 0x31 0 0
  | .subb => commandWord 0x32 0 0
  | .isubb => commandWord 0x33 0 0
  | .shr => commandWord 0x34 0 0
  | .ishr => commandWord 0x35 0 0
  | .mixc => commandWord 0x36 0 0
  | .imixc => commandWord 0x37 0 0
  | .ark r => commandWord 0x38 r 0
  | .encb => commandWord 0x40 0 0
  | .decb => commandWord 0x41 0 0
  | .cfgecb => commandWord 0x50 0 0
  | .cfgcbc => commandWord 0x51 0 0
  | .cfgctr => commandWord 0x52 0 0
  | .setiv => commandWord 0x53 0 0
  | .getiv => commandWord 0x54 0 0
  | .rdctr => commandWord 0x55 0 0
  | .ecbenc => commandWord 0x60 0 0
  | .ecbdec => commandWord 0x61 0 0
  | .cbcenc => commandWord 0x62 0 0
  | .cbcdec => commandWord 0x63 0 0
  | .ctrenc => commandWord 0x64 0 0
  | .ctrdec => commandWord 0x65 0 0

/-! The table of R109. -/

/-- A row of R109: a word selects the command when `(w & mask) == match`, and for ARK and RDRK (`indexed`)
also `w[23:20] ≤ 10`. -/
structure OpcodeRow where
  mnemonic : String
  pattern : Word
  mask : Word
  indexed : Bool
  deriving DecidableEq, Repr

/-- The 28 rows of R109, copied from its table. -/
def opcodeTable : List OpcodeRow :=
  [ ⟨"NOP", 0x00000000, 0xFFFFFFFF, false⟩,
    ⟨"KEYLD", 0x10000000, 0xFFFFFFFF, false⟩,
    ⟨"RDRK", 0x11000000, 0xFF0FFFFF, true⟩,
    ⟨"SBOX", 0x20000000, 0xFFFFFF00, false⟩,
    ⟨"ISBOX", 0x21000000, 0xFFFFFF00, false⟩,
    ⟨"LDST", 0x30000000, 0xFFFFFFFF, false⟩,
    ⟨"STST", 0x31000000, 0xFFFFFFFF, false⟩,
    ⟨"SUBB", 0x32000000, 0xFFFFFFFF, false⟩,
    ⟨"ISUBB", 0x33000000, 0xFFFFFFFF, false⟩,
    ⟨"SHR", 0x34000000, 0xFFFFFFFF, false⟩,
    ⟨"ISHR", 0x35000000, 0xFFFFFFFF, false⟩,
    ⟨"MIXC", 0x36000000, 0xFFFFFFFF, false⟩,
    ⟨"IMIXC", 0x37000000, 0xFFFFFFFF, false⟩,
    ⟨"ARK", 0x38000000, 0xFF0FFFFF, true⟩,
    ⟨"ENCB", 0x40000000, 0xFFFFFFFF, false⟩,
    ⟨"DECB", 0x41000000, 0xFFFFFFFF, false⟩,
    ⟨"CFGECB", 0x50000000, 0xFFFFFFFF, false⟩,
    ⟨"CFGCBC", 0x51000000, 0xFFFFFFFF, false⟩,
    ⟨"CFGCTR", 0x52000000, 0xFFFFFFFF, false⟩,
    ⟨"SETIV", 0x53000000, 0xFFFFFFFF, false⟩,
    ⟨"GETIV", 0x54000000, 0xFFFFFFFF, false⟩,
    ⟨"RDCTR", 0x55000000, 0xFFFFFFFF, false⟩,
    ⟨"ECBENC", 0x60000000, 0xFFFFFFFF, false⟩,
    ⟨"ECBDEC", 0x61000000, 0xFFFFFFFF, false⟩,
    ⟨"CBCENC", 0x62000000, 0xFFFFFFFF, false⟩,
    ⟨"CBCDEC", 0x63000000, 0xFFFFFFFF, false⟩,
    ⟨"CTRENC", 0x64000000, 0xFFFFFFFF, false⟩,
    ⟨"CTRDEC", 0x65000000, 0xFFFFFFFF, false⟩ ]

/-- A word selects the row's command (R109). -/
def OpcodeRow.selects (row : OpcodeRow) (w : Word) : Bool :=
  w &&& row.mask == row.pattern && (!row.indexed || ridxLegal (ridxField w))

/-! What the host asks. -/

/-- The 32-bit value that `nbits` table bits `w` stand for; a command word has no byte order (R100: one
32-bit word, written in a single host write). -/
def tableWord (nbits w : Nat) : Option Word :=
  if w % 2 ^ nbits < 2 ^ 32 then some (BitVec.ofNat 32 (w % 2 ^ nbits)) else none

/-- The command the decoder reads from the table's numbering of the bits. -/
def decodeTableWord (nbits w : Nat) : Option Instr :=
  (tableWord nbits w).bind fun v => (decode v).toOption

end Sys2Proof
end

