-- ==== Sys2Proof/Machine/Bytes.lean ====
section
/-! DEFINITION. Byte strings and blocks (spec/00_scope.md rules R13 to R15): a block from a function of
its byte numbers, its bytes, byte strings to blocks, big-endian conversion, XOR. -/

namespace Sys2Proof.Machine

/-- The block whose byte i is `f i`. -/
def blockOf (f : Nat → Byte) : Block :=
  #v[f 0, f 1, f 2, f 3, f 4, f 5, f 6, f 7, f 8, f 9, f 10, f 11, f 12, f 13, f 14, f 15]

/-- `b[i]` for a block (R13); i is always below 16 where this is used. -/
def byteAt (b : Block) (i : Nat) : Byte := b[i]?.getD 0

/-- Matrix element `s[r][c]` of a block: byte `b[r + 4*c]` (R14, column-major). -/
def elemAt (b : Block) (r c : Nat) : Byte := byteAt b (r + 4 * c)

/-- The block whose matrix element `s[r][c]` is `f r c` (R14). -/
def matrixOf (f : Nat → Nat → Byte) : Block := blockOf fun i => f (i % 4) (i / 4)

/-- Byte i of a column or key-schedule word. -/
def colByte (t : Column) (i : Nat) : Byte := t[i]?.getD 0

/-- The block of a 16-byte string. -/
def blockOfBytes (bs : List Byte) : Block := blockOf fun i => bs.getD i 0

/-- The 16 bytes of a block, byte 0 first. -/
def blockBytes (b : Block) : List Byte := b.toList

/-- `a ⊕ b` of two blocks (R13). -/
def xorBlock (a b : Block) : Block := blockOf fun i => byteAt a i ^^^ byteAt b i

/-- `a ⊕ b` of two byte strings, as long as the shorter one (R13 uses it at equal lengths). -/
def xorBytes (a b : List Byte) : List Byte := List.zipWith (· ^^^ ·) a b

/-- `ToBE16(v)` of R15: byte k is `(v >> (8*(15-k))) & 0xFF`. -/
def toBE16 (v : Counter) : Block := blockOf fun k => (v >>> (8 * (15 - k))).setWidth 8

/-- `BE(b)` of R15: the integer whose most significant byte is `b[0]`; 0 for the empty string. -/
def bigEndian (bs : List Byte) : Nat := bs.foldl (fun acc b => acc * 256 + b.toNat) 0

end Sys2Proof.Machine
end

