-- ==== Sys2Proof/Config.lean ====
section
/-! DEFINITION. The named parameters of spec/00_scope.md rule R10, which a model takes as an argument
(here a field of State that no step changes), and the free values, which nothing in Lean can evaluate. -/

namespace Sys2Proof

/-- The parameters of R10. `LATENCY` has no field: R372 says that no rule depends on it, and any finite
latency is a position of the engine's step in the schedule (notes/assumptions/3.md). -/
structure Config where
  /-- `DMEM_SIZE`: bytes of data memory. -/
  dmemSize : Nat
  /-- `HOST_BASE`: the platform address at which the register window starts. -/
  hostBase : Nat
  deriving DecidableEq, Repr

/-- The value of the worked programs of spec/95_test_vectors.md, used by State.reset only.
DESIGN CHOICE (notes/assumptions/1.md): R10 leaves both parameters OPEN. -/
def Config.worked : Config := { dmemSize := 4096, hostBase := 0 }

/-- The legal values of R10: `DMEM_SIZE` a multiple of 16 from 64 to 2^24, and `HOST_BASE` aligned to
some 2^k with 2^k ≥ 0x1000 + `DMEM_SIZE` (k = 25 covers the largest memory; an address aligned to a
larger such power is aligned to a smaller one). -/
def Config.legal (c : Config) : Bool :=
  c.dmemSize % 16 == 0 && decide (64 ≤ c.dmemSize) && decide (c.dmemSize ≤ 2 ^ 24) &&
    (List.range 26).any fun k => decide (0x1000 + c.dmemSize ≤ 2 ^ k) && c.hostBase % 2 ^ k == 0

/-- A free byte of DMEM: what the byte at offset `addr` holds by the draw numbered `draw` (R364: "A model
gives each byte a free value (a draw) at reset"; also R83 and R362). No body: nothing constrains it. -/
opaque Config.freeByte (draw addr : Nat) : Byte

/-- A free 32-bit value: what the host read that takes the draw numbered `draw` returns in the bits that
R57 or R83 leaves unspecified. No body: nothing constrains it. -/
opaque Config.freeWord (draw : Nat) : Word

end Sys2Proof
end

