-- ==== Sys2Proof/Machine/State.lean ====
section
/-! DEFINITION. Everything spec/10_state.md gives the machine (rules R33 to R48), the latched copies of
R46, the bus events of R58 with their order (R82), and the reset state (spec/70_reset_and_hazards.md
rule R361). Plain data: no field is a function. -/

namespace Sys2Proof.Machine

/-- Why the machine stops. Neither reason can arise in a run: `step` runs a command only while BUSY = 1,
and every command checks its ranges first (R17). -/
inductive Fault where
  /-- Raised by every meaning when no command is running: the execution step "is enabled exactly when
  BUSY = 1" (R81). Safe: the machine stops where the engine has no step. -/
  | engineIdle
  /-- Raised by MemRead and MemWrite on a range outside DMEM, where R17 does not define them.
  Safe: the machine stops where the engine never goes. -/
  | outsideDmem (addr len : Nat)
  deriving DecidableEq, Repr

/-- Why an instruction has no meaning. Safe: nothing can be proved of such an instruction's effect. -/
inductive Refusal where
  /-- Raised by `exec` for an instruction that has no meaning yet; no instruction of this model raises it. -/
  | notModelled (mnemonic : String)
  deriving DecidableEq, Repr

/-- The errors of R320, each of the document's three with the length it carries (R325). -/
inductive CmdError where
  | invalidKeyLength (len : Word)
  | invalidIvLength (len : Word)
  | invalidInputLength (len : Word)
  | illegalCommand
  | noKey
  | wrongMode
  | range
  | overlap
  deriving DecidableEq, Repr

/-- `MODE` of R35. -/
inductive Mode where
  | none
  | ecb
  | cbc
  | ctr
  deriving DecidableEq, Repr

/-- What the engine holds for the length of a running command: the latched copies of CMD, SRC, DST and LEN
(R46), and the footprint bytes that a host write touched since acceptance (R83), each listed once. -/
structure Latch where
  cmd : Word
  src : Word
  dst : Word
  len : Word
  disturbed : List Nat
  deriving DecidableEq, Repr

/-- One item of the total order of R82: a host transaction of R58, a point where the engine may take
its step (R81), or the reset event of R360. Offsets count from `HOST_BASE` (R49). -/
inductive Event where
  | write (off value : Word)
  | read (off : Word)
  | engine
  | reset
  deriving DecidableEq, Repr

/-- `DMEM` of R42: the bytes written since the draw numbered `draw` gave every byte its value.
An address with no cell holds that draw's byte (Memory.read in Ops.lean). -/
structure Memory where
  draw : Nat
  cells : List Host.Cell
  deriving DecidableEq, Repr

/-- The machine. `busy` of R48 is not stored: BUSY = 1 exactly while `running` holds a latch
(State.busy in Flags.lean). -/
structure State where
  /-- The parameters of R10. -/
  cfg : Config
  /-- `RK[0..10]`, R33. -/
  rk : Schedule
  /-- `KEYV`, R34. -/
  keyv : Bool
  /-- `MODE`, R35. -/
  mode : Mode
  /-- `STATE`, R36. -/
  state : Block
  /-- `IV`, R37. -/
  iv : Block
  /-- `CTR`, R38. -/
  ctr : Counter
  /-- `RESULT`, R39. -/
  result : Word
  /-- `SRC`, R40. -/
  src : Word
  /-- `DST`, R40. -/
  dst : Word
  /-- `LEN`, R40. -/
  len : Word
  /-- `CMDR`, R41. -/
  cmdr : Word
  /-- `DMEM`, R42. -/
  dmem : Memory
  /-- `ERR`, R48. -/
  err : Bool
  /-- `ERRCODE`, R48 and R320. -/
  errcode : BitVec 4
  /-- `ERRLEN`, R48 and R52. -/
  errlen : Word
  /-- `OVR`, R48. -/
  ovr : Bool
  /-- `BUSY` and the latched copies, R46 and R48. -/
  running : Option Latch
  /-- The model's own: how many draws of free values have been taken. -/
  draws : Nat
  /-- The environment's: the events still to come, first one first (R82). -/
  pending : List Event
  /-- The environment's: what the host's reads have returned, the latest first (`HostRead`, R58). -/
  reads : List Word
  deriving DecidableEq, Repr

/-- The reset state of R361 for given parameters, with DMEM given by draw 0 (R364). -/
def State.resetWith (c : Config) : State where
  cfg := c
  rk := Schedule.zero
  keyv := false
  mode := .none
  state := Block.zero
  iv := Block.zero
  ctr := 0
  result := 0
  src := 0
  dst := 0
  len := 0
  cmdr := 0
  dmem := { draw := 0, cells := [] }
  err := false
  errcode := 0
  errlen := 0
  ovr := false
  running := none
  draws := 1
  pending := []
  reads := []

/-- The machine right after power-on (R360, R361, R363): idle, waiting for the first host write to CMD. -/
def State.reset : State := State.resetWith Config.worked

end Sys2Proof.Machine
end

