-- ==== Sys2Proof/Machine/Flags.lean ====
section
/-! DEFINITION. The status flags (spec/10_state.md rules R48 and R50): BUSY, the error fields with the
codes of spec/60_exceptions.md rule R320, and the STATUS word. The engine has no condition codes (R48). -/

namespace Sys2Proof.Machine

/-- `BUSY` of R48: 1 from the acceptance of a command until its completion. -/
def State.busy (s : State) : Bool := s.running.isSome

/-- The value of `MODE` (R35). -/
def Mode.code : Mode → BitVec 2
  | .none => 0
  | .ecb => 1
  | .cbc => 2
  | .ctr => 3

/-- The error code of R320. -/
def CmdError.code : CmdError → BitVec 4
  | .invalidKeyLength _ => 1
  | .invalidIvLength _ => 2
  | .invalidInputLength _ => 3
  | .illegalCommand => 4
  | .noKey => 5
  | .wrongMode => 6
  | .range => 7
  | .overlap => 8

/-- The length that goes to `ERRLEN` (R18, R325): the offending length for codes 1 to 3, and 0 otherwise. -/
def CmdError.length : CmdError → Word
  | .invalidKeyLength n => n
  | .invalidIvLength n => n
  | .invalidInputLength n => n
  | .illegalCommand => 0
  | .noKey => 0
  | .wrongMode => 0
  | .range => 0
  | .overlap => 0

/-- The acceptance clear of R324. -/
def State.clearError (s : State) : State := { s with err := false, errcode := 0, errlen := 0 }

/-- The error fields of `raise Error(code, n)` (R18). -/
def State.recordError (e : CmdError) (s : State) : State :=
  { s with err := true, errcode := e.code, errlen := e.length }

/-- One bit as a 32-bit word. -/
def bitWord (b : Bool) : Word := (BitVec.ofBool b).setWidth 32

/-- STATUS as one expression (R50): `BUSY | ERR<<1 | OVR<<2 | KEYV<<3 | MODE<<4 | ERRCODE<<8`. -/
def State.status (s : State) : Word :=
  bitWord s.busy ||| bitWord s.err <<< 1 ||| bitWord s.ovr <<< 2 ||| bitWord s.keyv <<< 3 |||
    s.mode.code.setWidth 32 <<< 4 ||| s.errcode.setWidth 32 <<< 8

/-- The STATUS bits that read a free value while BUSY = 1 (R57): ERR, KEYV, MODE and ERRCODE. -/
def freeStatusBits : Word := 0x00000F3A

/-- STATUS as read while BUSY = 1 (R57): BUSY reads 1, OVR its true value, the fields of `freeStatusBits`
what `free` holds there, and the reserved bits 0. -/
def State.busyStatus (s : State) (free : Word) : Word :=
  (free &&& freeStatusBits) ||| 1 ||| bitWord s.ovr <<< 2

end Sys2Proof.Machine
end

