-- ==== Sys2Proof/Machine/Ops.lean ====
section
/-! DEFINITION. The named operations that the meanings share: DMEM and its two primitives
(spec/00_scope.md rule R17), accepting a command (R51, R324), its execution step's enabling (R81), its completion,
and `raise Error` (R18). The engine has no trap entry and no trap return (R331, R332): an error is a
completion status, and raising one leaves the engine idle and ready for the next command. -/

namespace Sys2Proof.Machine

/-- What a meaning answers. -/
abbrev Result := Host.Outcome State Fault Refusal

/-! DMEM. -/

/-- The byte a cell list holds at an address, if any cell is at it. -/
def lookupCell : List Host.Cell → Nat → Option Byte
  | [], _ => none
  | c :: cs, a => if c.1 = a then some c.2 else lookupCell cs a

/-- A byte put into a cell list, which stays in rising order of address. -/
def insertCell (a : Nat) (b : Byte) : List Host.Cell → List Host.Cell
  | [] => [(a, b)]
  | c :: cs =>
    if a < c.1 then (a, b) :: c :: cs
    else if a = c.1 then (a, b) :: cs
    else c :: insertCell a b cs

/-- The canonical form: addresses strictly rising. An unlisted address holds no written byte, so a cell,
which always holds one, never equals what an unlisted address holds (notes/assumptions/2.md). -/
abbrev Memory.wf (m : Memory) : Prop := m.cells.Pairwise fun x y => x.1 < y.1

/-- `DMEM[a]` (R42): the byte last written at a, or the free byte that the last reset drew for it (R364).
This is the one definition of what an unlisted address reads as. -/
def Memory.read (m : Memory) (a : Nat) : Byte := (lookupCell m.cells a).getD (Config.freeByte m.draw a)

/-- `DMEM[a] <- b`. -/
def Memory.write (m : Memory) (a : Nat) (b : Byte) : Memory := { m with cells := insertCell a b m.cells }

/-- The n-byte string at offset a, byte k at a + k (R17, R71). -/
def Memory.readBytes (m : Memory) (a n : Nat) : List Byte := (List.range n).map fun k => m.read (a + k)

/-- A byte string stored at offset a, byte k at a + k (R17, R71). -/
def Memory.writeBytes (m : Memory) (a : Nat) : List Byte → Memory
  | [] => m
  | b :: bs => (m.write a b).writeBytes (a + 1) bs

/-- The host's 32-bit read of R56: `DMEM[a] | DMEM[a+1]<<8 | DMEM[a+2]<<16 | DMEM[a+3]<<24`. -/
def Memory.readWord (m : Memory) (a : Nat) : Word :=
  (m.read a).setWidth 32 ||| (m.read (a + 1)).setWidth 32 <<< 8 ||| (m.read (a + 2)).setWidth 32 <<< 16 |||
    (m.read (a + 3)).setWidth 32 <<< 24

/-- Byte j of a 32-bit value: bits 8j+7..8j (R56). -/
def laneByte (v : Word) (j : Nat) : Byte := v.extractLsb' (8 * j) 8

/-- Free bytes of one draw at each address of a list (R83: "unspecified values"). -/
def Memory.scramble (m : Memory) (draw : Nat) : List Nat → Memory
  | [] => m
  | a :: as => (m.write a (Config.freeByte draw a)).scramble draw as

/-- A range that MemRead and MemWrite are defined on (R17: "only when n = 0 or a + n ≤ DMEM_SIZE"). -/
def inDmem (c : Config) (a n : Nat) : Bool := n == 0 || decide (a + n ≤ c.dmemSize)

/-- `v <- MemRead(a, n)`, then the rest of the command. -/
def memRead (s : State) (a n : Nat) (rest : List Byte → Result) : Result :=
  if inDmem s.cfg a n then rest (s.dmem.readBytes a n) else .fault (.outsideDmem a n)

/-- `MemWrite(a, len(v), v)`, then the rest of the command. -/
def memWrite (s : State) (a : Nat) (v : List Byte) (rest : State → Result) : Result :=
  if inDmem s.cfg a v.length then rest { s with dmem := s.dmem.writeBytes a v } else .fault (.outsideDmem a v.length)

/-! Accepting, running, completing and failing. -/

/-- Acceptance of a host write of `w` to CMD while BUSY = 0 (R51), with the clear of R324. -/
def accept (s : State) (w : Word) : State :=
  { s.clearError with
    cmdr := w
    running := some { cmd := w, src := s.src, dst := s.dst, len := s.len, disturbed := [] } }

/-- The execution step of a command (R81), enabled exactly when BUSY = 1: its pseudocode runs against the
latched operands (R46). -/
def whileBusy (s : State) (body : Latch → Result) : Result :=
  match s.running with
  | some l => body l
  | none => .fault .engineIdle

/-- Completion (R80): BUSY becomes 0 and the latched copies end. -/
def State.complete (s : State) : State := { s with running := none }

/-- The command ends without error in this state. -/
def finish (s : State) : Result := .next s.complete

/-- The state after `raise Error(e)` in state s: nothing of the command's effect, the error fields set
(R18, R323), and the command completed (R80). -/
def State.failed (e : CmdError) (s : State) : State := (s.recordError e).complete

/-- `raise Error(e)` (R18). -/
def raise (e : CmdError) (s : State) : Result := .next (s.failed e)

end Sys2Proof.Machine
end

