-- ==== Sys2Proof/Machine/Operands.lean ====
section
/-! DEFINITION. What a command reads and writes of DMEM (spec/20_memory.md rule R75, spec/30_encoding.md
rule R108), the running command's footprint (R83), and the checks that commands share
(spec/44_mode_control.md rule R241; the round-key index of R102). -/

namespace Sys2Proof.Machine

/-- `CheckRange(a, n)` fails (R241): `n > 0 and a + n > DMEM_SIZE`, with no 32-bit wrap. -/
def rangeFails (s : State) (a n : Nat) : Bool := decide (0 < n) && decide (s.cfg.dmemSize < a + n)

/-- `CheckOverlap(s, d, n)` fails (R241): `n > 0 and s != d and s < d + n and d < s + n`. -/
def overlapFails (s d n : Nat) : Bool :=
  decide (0 < n) && decide (s ≠ d) && decide (s < d + n) && decide (d < s + n)

/-- `RK[r]` (R33); r is 0..10 where this is used. -/
def roundKeyAt (rk : Schedule) (r : Nat) : Block := rk[r]?.getD Block.zero

/-- How many bytes a command reads at SRC, for the latched LEN (R75). -/
def sourceLength (i : Instr) (len : Nat) : Nat :=
  match i with
  | .keyld | .cfgcbc | .setiv => if len = 16 then 16 else 0
  | .ldst => 16
  | .cfgctr | .ecbenc | .ecbdec | .cbcenc | .cbcdec | .ctrenc | .ctrdec => len
  | .stst | .getiv | .rdrk _ | .rdctr | .nop | .sbox _ | .isbox _ | .subb | .isubb | .shr | .ishr | .mixc
  | .imixc | .ark _ | .encb | .decb | .cfgecb => 0

/-- How many bytes a command writes at DST, for the latched LEN (R75). -/
def destLength (i : Instr) (len : Nat) : Nat :=
  match i with
  | .stst | .getiv | .rdrk _ | .rdctr => 16
  | .ecbenc | .ecbdec | .cbcenc | .cbcdec | .ctrenc | .ctrdec => len
  | .keyld | .cfgcbc | .setiv | .ldst | .cfgctr | .nop | .sbox _ | .isbox _ | .subb | .isubb | .shr | .ishr
  | .mixc | .imixc | .ark _ | .encb | .decb | .cfgecb => 0

/-- Address a is one of the n bytes at base. -/
def inSpan (base n a : Nat) : Bool := decide (base ≤ a) && decide (a < base + n)

/-- Byte a is in the footprint of the command that the latch holds (R83), "whether or not the command later
fails a check". An illegal word has none. -/
def inFootprint (l : Latch) (a : Nat) : Bool :=
  match decode l.cmd with
  | .ok i => inSpan l.src.toNat (sourceLength i l.len.toNat) a || inSpan l.dst.toNat (destLength i l.len.toNat) a
  | .error _ => false

/-- Byte a is in the footprint of a running command. -/
def State.guarded (s : State) (a : Nat) : Bool :=
  match s.running with
  | some l => inFootprint l a
  | none => false

/-- The DMEM bytes of the destination range of a command (R75), "whether or not the command later fails a check"
(R83): the addresses of the range that are offsets of DMEM. -/
def destAddresses (c : Config) (i : Instr) (l : Latch) : List Nat :=
  (List.range (min (destLength i l.len.toNat) (c.dmemSize - l.dst.toNat))).map fun k => l.dst.toNat + k

end Sys2Proof.Machine
end

