-- ==== Sys2Proof/Machine/Bus.lean ====
section
/-! DEFINITION. The host's side: the register map (spec/10_state.md rules R49 to R57), host reads and writes
with the free values of R57 and R83, and the reset event (spec/70_reset_and_hazards.md rules R360 to R364). -/

namespace Sys2Proof.Machine

/-- What a window offset names (R49). -/
inductive Region where
  | cmd
  | status
  | errlen
  | src
  | dst
  | len
  | result
  | dmem (addr : Nat)
  | reserved
  deriving DecidableEq, Repr

/-- The aligned offset an access goes to: `off & ~3` (R73). -/
def alignedOffset (off : Word) : Nat := (off &&& ~~~3).toNat

/-- The register map of R49; offsets past the DMEM window read as reserved (R55). -/
def regionOf (c : Config) (off : Word) : Region :=
  let o := alignedOffset off
  if o = 0x000 then .cmd
  else if o = 0x004 then .status
  else if o = 0x008 then .errlen
  else if o = 0x00C then .src
  else if o = 0x010 then .dst
  else if o = 0x014 then .len
  else if o = 0x018 then .result
  else if 0x1000 ≤ o ∧ o + 4 ≤ 0x1000 + c.dmemSize then .dmem (o - 0x1000)
  else .reserved

/-- The platform address of a window offset (R10, R49). -/
def busAddress (c : Config) (off : Word) : Nat := c.hostBase + off.toNat

/-! Host reads. -/

/-- The word at DMEM offset a has a byte in the footprint of a running command (R83). -/
def State.wordGuarded (s : State) (a : Nat) : Bool :=
  s.guarded a || s.guarded (a + 1) || s.guarded (a + 2) || s.guarded (a + 3)

/-- What a host read returns (R49 to R57, R83). While BUSY = 1 the registers of R57 and the guarded DMEM words
read the free word of the next draw. -/
def readValue (s : State) (off : Word) : Word :=
  let free := Config.freeWord s.draws
  match regionOf s.cfg off with
  | .cmd => if s.busy then free else s.cmdr
  | .status => if s.busy then s.busyStatus free else s.status
  | .errlen => if s.busy then free else s.errlen
  | .src => s.src
  | .dst => s.dst
  | .len => s.len
  | .result => if s.busy then free else s.result
  | .dmem a => if s.wordGuarded a then free else s.dmem.readWord a
  | .reserved => 0

/-- `HostRead(off)` (R58): no side effect on the engine (R76). The value goes to the host's list, and the
model's draw counter moves on so that no later read takes the same draw. -/
def hostRead (s : State) (off : Word) : State :=
  { s with reads := readValue s off :: s.reads, draws := s.draws + 1 }

/-! Host writes. -/

/-- A footprint byte that the host wrote, remembered until the command completes (R83). -/
def Latch.disturb (l : Latch) (a : Nat) : Latch :=
  if l.disturbed.contains a then l else { l with disturbed := a :: l.disturbed }

/-- One byte of a host write to DMEM: stored as usual outside a running command's footprint, and remembered
inside it, where the command must not see it and the byte is unspecified after completion (R83). -/
def hostWriteByte (s : State) (a : Nat) (b : Byte) : State :=
  if s.guarded a then { s with running := s.running.map fun l => l.disturb a }
  else { s with dmem := s.dmem.write a b }

/-- A host write of the word v at DMEM offset a: `DMEM[a+j] <- v[8j+7:8j]` for j in 0..3 (R56). -/
def hostWriteWord (s : State) (a : Nat) (v : Word) : State :=
  (List.range 4).foldl (fun s j => hostWriteByte s (a + j) (laneByte v j)) s

/-- `HostWrite(off, v)` (R58): CMD accepts a command or sets OVR (R51, R329), STATUS clears OVR where bit 2 is
1 (R50), SRC, DST and LEN store (R53), DMEM stores (R56, R83), and every other write is ignored
(R52, R54, R55). -/
def hostWrite (s : State) (off v : Word) : State :=
  match regionOf s.cfg off with
  | .cmd => if s.busy then { s with ovr := true } else accept s v
  | .status => if v.getLsbD 2 then { s with ovr := false } else s
  | .errlen => s
  | .src => { s with src := v }
  | .dst => { s with dst := v }
  | .len => { s with len := v }
  | .result => s
  | .dmem a => hostWriteWord s a v
  | .reserved => s

/-! Reset. -/

/-- The event `Reset` (R360): every register takes its value of R361, a running command is abandoned (R362), and
every DMEM byte takes a fresh free value (R364, which covers the destination range of R362 too). The
parameters, the events still to come and the host's list of values are not the engine's. -/
def resetEvent (s : State) : State :=
  { State.resetWith s.cfg with
    dmem := { draw := s.draws, cells := [] }
    draws := s.draws + 1
    pending := s.pending
    reads := s.reads }

end Sys2Proof.Machine
end

