-- ==== Sys2Proof/Machine/RoundTransform.lean ====
section
/-! DEFINITION. The round transform (spec/41_round_transform.md): GF(2^8) (spec/00_scope.md rule R19), the
step functions of R160 to R166 and the nine commands on STATE of R170 to R178. -/

namespace Sys2Proof.Machine

/-! GF(2^8), R19. -/

/-- `xtime(a) = ((a << 1) ⊕ (a[7] ? 0x1B : 0)) & 0xFF` (R19). -/
def xtime (a : Byte) : Byte := a <<< 1 ^^^ (if a.getLsbD 7 then 0x1B else 0)

/-- `xtime^i(a)`. -/
def xtimes : Nat → Byte → Byte
  | 0, a => a
  | i + 1, a => xtime (xtimes i a)

/-- `a • b`: the XOR of `xtime^i(a)` over every bit i set in b (R19). -/
def gmul (a b : Byte) : Byte :=
  (List.range 8).foldl (fun acc i => if b.getLsbD i then acc ^^^ xtimes i a else acc) 0

/-! The step functions. -/

/-- R160. -/
def subBytes (b : Block) : Block := blockOf fun i => sboxOf (byteAt b i)

/-- R161. -/
def invSubBytes (b : Block) : Block := blockOf fun i => invSboxOf (byteAt b i)

/-- R162: `s'[r][c] = s[r][(c + r) mod 4]`. -/
def shiftRows (b : Block) : Block := matrixOf fun r c => elemAt b r ((c + r) % 4)

/-- R163: `s'[r][c] = s[r][(c − r) mod 4]`, the mod giving 0..3. -/
def invShiftRows (b : Block) : Block := matrixOf fun r c => elemAt b r ((c + 4 - r) % 4)

/-- Row r of the matrix product of R164 and R165, for the circulant matrix whose row 0 is (k0 k1 k2 k3):
row r is row 0 rotated right by r, and the entries multiply s[0], s[1], s[2], s[3] in order. -/
def circulantRow (k0 k1 k2 k3 : Byte) (s0 s1 s2 s3 : Byte) : Nat → Byte
  | 0 => gmul s0 k0 ^^^ gmul s1 k1 ^^^ gmul s2 k2 ^^^ gmul s3 k3
  | 1 => gmul s0 k3 ^^^ gmul s1 k0 ^^^ gmul s2 k1 ^^^ gmul s3 k2
  | 2 => gmul s0 k2 ^^^ gmul s1 k3 ^^^ gmul s2 k0 ^^^ gmul s3 k1
  | _ => gmul s0 k1 ^^^ gmul s1 k2 ^^^ gmul s2 k3 ^^^ gmul s3 k0

/-- Each column of a block multiplied by the circulant matrix with row 0 (k0 k1 k2 k3). -/
def circulantColumns (k0 k1 k2 k3 : Byte) (b : Block) : Block :=
  matrixOf fun r c => circulantRow k0 k1 k2 k3 (elemAt b 0 c) (elemAt b 1 c) (elemAt b 2 c) (elemAt b 3 c) r

/-- R164: the matrix with rows 02 03 01 01, 01 02 03 01, 01 01 02 03, 03 01 01 02. -/
def mixColumns (b : Block) : Block := circulantColumns 0x02 0x03 0x01 0x01 b

/-- R165: the matrix with rows 0e 0b 0d 09, 09 0e 0b 0d, 0d 09 0e 0b, 0b 0d 09 0e. -/
def invMixColumns (b : Block) : Block := circulantColumns 0x0E 0x0B 0x0D 0x09 b

/-- R166: `AddRoundKey(b, k) = b ⊕ k`. -/
def addRoundKey (b k : Block) : Block := xorBlock b k

/-! The commands. -/

/-- `STATE <- f(STATE)`, the form of R172 to R177. -/
def transformState (s : State) (f : Block → Block) : Result :=
  whileBusy s fun _ => finish { s with state := f s.state }

/-- LDST (R170): `CheckRange(SRC, 16); STATE <- MemRead(SRC, 16)`. -/
def execLdst (s : State) : Result :=
  whileBusy s fun l =>
    if rangeFails s l.src.toNat 16 then raise .range s
    else memRead s l.src.toNat 16 fun bs => finish { s with state := blockOfBytes bs }

/-- `CheckRange(DST, 16); MemWrite(DST, 16, b)`, the end of R171, R207, R248 and R249. -/
def storeBlock (s : State) (l : Latch) (b : Block) : Result :=
  if rangeFails s l.dst.toNat 16 then raise .range s
  else memWrite s l.dst.toNat (blockBytes b) finish

/-- STST (R171): `CheckRange(DST, 16); MemWrite(DST, 16, STATE)`. -/
def execStst (s : State) : Result := whileBusy s fun l => storeBlock s l s.state

/-- SUBB (R172). -/
def execSubb (s : State) : Result := transformState s subBytes

/-- ISUBB (R173). -/
def execIsubb (s : State) : Result := transformState s invSubBytes

/-- SHR (R174). -/
def execShr (s : State) : Result := transformState s shiftRows

/-- ISHR (R175). -/
def execIshr (s : State) : Result := transformState s invShiftRows

/-- MIXC (R176). -/
def execMixc (s : State) : Result := transformState s mixColumns

/-- IMIXC (R177). -/
def execImixc (s : State) : Result := transformState s invMixColumns

/-- ARK r (R178): ILLEGAL_COMMAND when r > 10, then NO_KEY, then `STATE <- AddRoundKey(STATE, RK[r])`. -/
def execArk (ridx : BitVec 4) (s : State) : Result :=
  whileBusy s fun _ =>
    if !ridxLegal ridx then raise .illegalCommand s
    else if !s.keyv then raise .noKey s
    else finish { s with state := addRoundKey s.state (roundKeyAt s.rk ridx.toNat) }

end Sys2Proof.Machine
end

