-- ==== Sys2Proof/Machine/KeySchedule.lean ====
section
/-! DEFINITION. The key schedule expander (spec/42_key_schedule.md): KeyExpansion (R200 to R202) and the
commands KEYLD and RDRK (R206, R207). -/

namespace Sys2Proof.Machine

/-- `Rcon[1..10]` (R44, R201). -/
def rconTable : List Byte := [0x01, 0x02, 0x04, 0x08, 0x10, 0x20, 0x40, 0x80, 0x1B, 0x36]

/-- `Rcon[j]` for j in 1..10. -/
def rcon (j : Nat) : Byte := rconTable.getD (j - 1) 0

/-- A 4-byte word from its bytes, the first byte first. -/
def columnOf (f : Nat → Byte) : Column := #v[f 0, f 1, f 2, f 3]

/-- RotWord: rotate left by one byte (R201). -/
def rotWord (t : Column) : Column := columnOf fun i => colByte t ((i + 1) % 4)

/-- SubWord (R201). -/
def subWord (t : Column) : Column := columnOf fun i => sboxOf (colByte t i)

/-- `t[0] <- t[0] ⊕ k`, the first byte only (R201). -/
def xorFirst (t : Column) (k : Byte) : Column := columnOf fun i => if i = 0 then colByte t 0 ^^^ k else colByte t i

/-- Byte-wise XOR of two words. -/
def xorColumn (a b : Column) : Column := columnOf fun i => colByte a i ^^^ colByte b i

/-- `w[i]` from `w[i-1]` and `w[i-4]`, for i in 4..43: the loop body of R201. -/
def nextWord (i : Nat) (prev back4 : Column) : Column :=
  xorColumn back4 (if i % 4 = 0 then xorFirst (subWord (rotWord prev)) (rcon (i / 4)) else prev)

/-- `w[n+3], …, w[0]`, the latest word first, after n turns of the loop of R201. -/
def scheduleWords (k : Block) : Nat → List Column
  | 0 => [3, 2, 1, 0].map fun j => columnOf fun i => byteAt k (4 * j + i)
  | n + 1 =>
    let ws := scheduleWords k n
    nextWord (n + 4) (ws.getD 0 Column.zero) (ws.getD 3 Column.zero) :: ws

/-- `w[0], …, w[43]` (R201). -/
def keyWords (k : Block) : List Column := (scheduleWords k 40).reverse

/-- `w[4r] ‖ w[4r+1] ‖ w[4r+2] ‖ w[4r+3]` of a word list (R202). -/
def joinWords (ws : List Column) (r : Nat) : Block :=
  blockOf fun i => colByte (ws.getD (4 * r + i / 4) Column.zero) (i % 4)

/-- `RoundKey(K, r)` for r in 0..10 (R202). -/
def roundKey (k : Block) (r : Nat) : Block := joinWords (keyWords k) r

/-- All 11 round keys of a key (R206: `for r in 0..10: RK[r] <- RoundKey(k, r)`). -/
def expandKey (k : Block) : Schedule :=
  #v[roundKey k 0, roundKey k 1, roundKey k 2, roundKey k 3, roundKey k 4, roundKey k 5, roundKey k 6,
    roundKey k 7, roundKey k 8, roundKey k 9, roundKey k 10]

/-- KEYLD (R206). -/
def execKeyld (s : State) : Result :=
  whileBusy s fun l =>
    if l.len.toNat ≠ 16 then raise (.invalidKeyLength l.len) s
    else if rangeFails s l.src.toNat 16 then raise .range s
    else memRead s l.src.toNat 16 fun bs =>
      finish { s with rk := expandKey (blockOfBytes bs), keyv := true, mode := .none }

/-- RDRK r (R207): ILLEGAL_COMMAND when r > 10, then NO_KEY, then RANGE. -/
def execRdrk (ridx : BitVec 4) (s : State) : Result :=
  whileBusy s fun l =>
    if !ridxLegal ridx then raise .illegalCommand s
    else if !s.keyv then raise .noKey s
    else storeBlock s l (roundKeyAt s.rk ridx.toNat)

end Sys2Proof.Machine
end

