-- ==== Sys2Proof/Machine/Cipher.lean ====
section
/-! DEFINITION. The 10-round cipher pipeline (spec/43_cipher.md): Cipher and InvCipher (R220, R221) and the
commands ENCB and DECB (R224, R225). -/

namespace Sys2Proof.Machine

/-- One round 1..9 of Cipher: SubBytes, ShiftRows, MixColumns, AddRoundKey (R220). -/
def cipherRound (s k : Block) : Block := addRoundKey (mixColumns (shiftRows (subBytes s))) k

/-- `Cipher(RK, b)` of R220; MixColumns is left out of round 10. -/
def cipher (rk : Schedule) (b : Block) : Block :=
  let s := [1, 2, 3, 4, 5, 6, 7, 8, 9].foldl (fun s r => cipherRound s (roundKeyAt rk r))
    (addRoundKey b (roundKeyAt rk 0))
  addRoundKey (shiftRows (subBytes s)) (roundKeyAt rk 10)

/-- One round 9..1 of InvCipher: AddRoundKey, InvMixColumns, InvShiftRows, InvSubBytes (R221). -/
def invCipherRound (s k : Block) : Block := invSubBytes (invShiftRows (invMixColumns (addRoundKey s k)))

/-- `InvCipher(RK, b)` of R221. -/
def invCipher (rk : Schedule) (b : Block) : Block :=
  let s := [9, 8, 7, 6, 5, 4, 3, 2, 1].foldl (fun s r => invCipherRound s (roundKeyAt rk r))
    (invSubBytes (invShiftRows (addRoundKey b (roundKeyAt rk 10))))
  addRoundKey s (roundKeyAt rk 0)

/-- ENCB (R224): `if KEYV = 0 then raise Error(NO_KEY); STATE <- Cipher(RK, STATE)`. -/
def execEncb (s : State) : Result :=
  whileBusy s fun _ =>
    if !s.keyv then raise .noKey s else finish { s with state := cipher s.rk s.state }

/-- DECB (R225): `if KEYV = 0 then raise Error(NO_KEY); STATE <- InvCipher(RK, STATE)`. -/
def execDecb (s : State) : Result :=
  whileBusy s fun _ =>
    if !s.keyv then raise .noKey s else finish { s with state := invCipher s.rk s.state }

end Sys2Proof.Machine
end

