-- ==== Sys2Proof/Machine/ModeControl.lean ====
section
/-! DEFINITION. Mode control (spec/44_mode_control.md): NOP, the CFG commands, SETIV, GETIV, RDCTR
(R240, R244 to R249), and the data-command frame of R250. -/

namespace Sys2Proof.Machine

/-- NOP (R240): nothing beyond acceptance. -/
def execNop (s : State) : Result := whileBusy s fun _ => finish s

/-- CFGECB (R244). -/
def execCfgecb (s : State) : Result :=
  whileBusy s fun _ => if !s.keyv then raise .noKey s else finish { s with mode := .ecb }

/-- `if LEN != 16 then raise Error(INVALID_IV_LENGTH, LEN); CheckRange(SRC, 16); v <- MemRead(SRC, 16)`,
then the rest: the common part of R245 and R247. -/
def loadIv (s : State) (l : Latch) (rest : Block → Result) : Result :=
  if l.len.toNat ≠ 16 then raise (.invalidIvLength l.len) s
  else if rangeFails s l.src.toNat 16 then raise .range s
  else memRead s l.src.toNat 16 fun bs => rest (blockOfBytes bs)

/-- CFGCBC (R245). -/
def execCfgcbc (s : State) : Result :=
  whileBusy s fun l =>
    if !s.keyv then raise .noKey s
    else loadIv s l fun v => finish { s with iv := v, mode := .cbc }

/-- CFGCTR (R246): `CTR <- BE(b) mod 2^128`. -/
def execCfgctr (s : State) : Result :=
  whileBusy s fun l =>
    if !s.keyv then raise .noKey s
    else if rangeFails s l.src.toNat l.len.toNat then raise .range s
    else memRead s l.src.toNat l.len.toNat fun bs =>
      finish { s with ctr := BitVec.ofNat 128 (bigEndian bs), mode := .ctr }

/-- SETIV (R247). -/
def execSetiv (s : State) : Result :=
  whileBusy s fun l =>
    if s.mode ≠ .cbc then raise .wrongMode s
    else loadIv s l fun v => finish { s with iv := v }

/-- GETIV (R248). -/
def execGetiv (s : State) : Result :=
  whileBusy s fun l => if s.mode ≠ .cbc then raise .wrongMode s else storeBlock s l s.iv

/-- RDCTR (R249). -/
def execRdctr (s : State) : Result :=
  whileBusy s fun l => if s.mode ≠ .ctr then raise .wrongMode s else storeBlock s l (toBE16 s.ctr)

/-- The data-command frame of R250. `aligned` says that the command checks `LEN mod 16` (the ECB and CBC
commands); `f` gives the output bytes and the counter after it. -/
def dataCommand (required : Mode) (aligned : Bool) (f : List Byte → List Byte × Counter) (s : State) : Result :=
  whileBusy s fun l =>
    if s.mode ≠ required then raise .wrongMode s
    else if aligned && l.len.toNat % 16 != 0 then raise (.invalidInputLength l.len) s
    else if rangeFails s l.src.toNat l.len.toNat then raise .range s
    else if rangeFails s l.dst.toNat l.len.toNat then raise .range s
    else if overlapFails l.src.toNat l.dst.toNat l.len.toNat then raise .overlap s
    else memRead s l.src.toNat l.len.toNat fun inp =>
      memWrite s l.dst.toNat (f inp).1 fun t => finish { t with ctr := (f inp).2 }

end Sys2Proof.Machine
end

