-- ==== Sys2Proof/Machine/Cbc.lean ====
section
/-! DEFINITION. The CBC mode controller (spec/46_cbc.md): CBCENC and CBCDEC (R280, R281). Neither writes
IV (R282). -/

namespace Sys2Proof.Machine

/-- The loop of `F_CBCENC` over n blocks, with the chaining block `prev` (R280). -/
def cbcEncBlocks (rk : Schedule) : Nat → Block → List Byte → List Byte
  | 0, _, _ => []
  | n + 1, prev, inp =>
    let c := cipher rk (xorBlock (blockOfBytes (inp.take 16)) prev)
    blockBytes c ++ cbcEncBlocks rk n c (inp.drop 16)

/-- The loop of `F_CBCDEC` over n blocks; `prev` is the raw ciphertext block before this one, or IV (R281). -/
def cbcDecBlocks (rk : Schedule) : Nat → Block → List Byte → List Byte
  | 0, _, _ => []
  | n + 1, prev, inp =>
    let c := blockOfBytes (inp.take 16)
    blockBytes (xorBlock (invCipher rk c) prev) ++ cbcDecBlocks rk n c (inp.drop 16)

/-- `F_CBCENC` (R280). -/
def cbcEncrypt (rk : Schedule) (iv : Block) (inp : List Byte) : List Byte :=
  cbcEncBlocks rk (inp.length / 16) iv inp

/-- `F_CBCDEC` (R281). -/
def cbcDecrypt (rk : Schedule) (iv : Block) (inp : List Byte) : List Byte :=
  cbcDecBlocks rk (inp.length / 16) iv inp

/-- CBCENC (R280). -/
def execCbcenc (s : State) : Result := dataCommand .cbc true (fun inp => (cbcEncrypt s.rk s.iv inp, s.ctr)) s

/-- CBCDEC (R281). -/
def execCbcdec (s : State) : Result := dataCommand .cbc true (fun inp => (cbcDecrypt s.rk s.iv inp, s.ctr)) s

end Sys2Proof.Machine
end

