-- ==== Sys2Proof/Machine/Ctr.lean ====
section
/-! DEFINITION. The CTR mode controller (spec/47_ctr.md): CTRENC and CTRDEC (R300 to R302), both through one
core routine. -/

namespace Sys2Proof.Machine

/-- The loop of `F_CTR` (R300) over n chunks from counter c: the output bytes and the counter after it. Each
chunk is the next 16 bytes, or those that are left, and only its first bytes of the keystream block are used. -/
def ctrChunks (rk : Schedule) : Nat → Counter → List Byte → List Byte × Counter
  | 0, c, _ => ([], c)
  | n + 1, c, inp =>
    let later := ctrChunks rk n (c + 1) (inp.drop 16)
    (xorBytes (inp.take 16) (blockBytes (cipher rk (toBE16 c))) ++ later.1, later.2)

/-- `F_CTR` (R300): ceil(LEN / 16) chunks. -/
def ctrCrypt (rk : Schedule) (c : Counter) (inp : List Byte) : List Byte × Counter :=
  ctrChunks rk ((inp.length + 15) / 16) c inp

/-- The core routine of both commands (R302). -/
def ctrCommand (s : State) : Result := dataCommand .ctr false (ctrCrypt s.rk s.ctr) s

/-- CTRENC (R300). -/
def execCtrenc (s : State) : Result := ctrCommand s

/-- CTRDEC (R302): identical to CTRENC. -/
def execCtrdec (s : State) : Result := ctrCommand s

end Sys2Proof.Machine
end

