-- ==== Sys2Proof/Machine/Ecb.lean ====
section
/-! DEFINITION. The ECB mode controller (spec/45_ecb.md): ECBENC and ECBDEC (R270, R271). -/

namespace Sys2Proof.Machine

/-- A block function applied to each of the first n 16-byte blocks of a string, in order: the loop of R270
and R271. -/
def ecbBlocks (f : Block → Block) : Nat → List Byte → List Byte
  | 0, _ => []
  | n + 1, inp => blockBytes (f (blockOfBytes (inp.take 16))) ++ ecbBlocks f n (inp.drop 16)

/-- `F_ECBENC` (R270). -/
def ecbEncrypt (rk : Schedule) (inp : List Byte) : List Byte := ecbBlocks (cipher rk) (inp.length / 16) inp

/-- `F_ECBDEC` (R271). -/
def ecbDecrypt (rk : Schedule) (inp : List Byte) : List Byte := ecbBlocks (invCipher rk) (inp.length / 16) inp

/-- ECBENC (R270). -/
def execEcbenc (s : State) : Result := dataCommand .ecb true (fun inp => (ecbEncrypt s.rk inp, s.ctr)) s

/-- ECBDEC (R271). -/
def execEcbdec (s : State) : Result := dataCommand .ecb true (fun inp => (ecbDecrypt s.rk inp, s.ctr)) s

end Sys2Proof.Machine
end

