-- ==== Sys2Proof/Machine/Dispatch.lean ====
section
/-! DEFINITION. One arm per command: the opcode map of spec/30_encoding.md rule R108 to the meanings. -/

namespace Sys2Proof.Machine

def exec (i : Instr) (s : State) : Host.Outcome State Fault Refusal :=
  match i with
  | .nop => Sys2Proof.Machine.execNop s
  | .keyld => Sys2Proof.Machine.execKeyld s
  | .rdrk ridx => Sys2Proof.Machine.execRdrk ridx s
  | .sbox imm8 => Sys2Proof.Machine.execSbox imm8 s
  | .isbox imm8 => Sys2Proof.Machine.execIsbox imm8 s
  | .ldst => Sys2Proof.Machine.execLdst s
  | .stst => Sys2Proof.Machine.execStst s
  | .subb => Sys2Proof.Machine.execSubb s
  | .isubb => Sys2Proof.Machine.execIsubb s
  | .shr => Sys2Proof.Machine.execShr s
  | .ishr => Sys2Proof.Machine.execIshr s
  | .mixc => Sys2Proof.Machine.execMixc s
  | .imixc => Sys2Proof.Machine.execImixc s
  | .ark ridx => Sys2Proof.Machine.execArk ridx s
  | .encb => Sys2Proof.Machine.execEncb s
  | .decb => Sys2Proof.Machine.execDecb s
  | .cfgecb => Sys2Proof.Machine.execCfgecb s
  | .cfgcbc => Sys2Proof.Machine.execCfgcbc s
  | .cfgctr => Sys2Proof.Machine.execCfgctr s
  | .setiv => Sys2Proof.Machine.execSetiv s
  | .getiv => Sys2Proof.Machine.execGetiv s
  | .rdctr => Sys2Proof.Machine.execRdctr s
  | .ecbenc => Sys2Proof.Machine.execEcbenc s
  | .ecbdec => Sys2Proof.Machine.execEcbdec s
  | .cbcenc => Sys2Proof.Machine.execCbcenc s
  | .cbcdec => Sys2Proof.Machine.execCbcdec s
  | .ctrenc => Sys2Proof.Machine.execCtrenc s
  | .ctrdec => Sys2Proof.Machine.execCtrdec s

end Sys2Proof.Machine
end

