-- ==== Sys2Proof/Machine/Engine.lean ====
section
/-! DEFINITION. The engine's execution step (spec/20_memory.md rule R81) and what a host write into a running
command's footprint leaves behind (R83). -/

namespace Sys2Proof.Machine

/-- The addresses that hold free values after a command completed, when the host wrote the bytes `disturbed` of its
footprint while it ran (R83): those bytes, and "if the command writes DMEM" its whole destination range, whether
or not it failed a check (notes/assumptions/5.md). An illegal word names no command and has no range. -/
def unsettled (c : Config) (l : Latch) : Option Instr → List Nat
  | some i => l.disturbed ++ destAddresses c i l
  | none => l.disturbed

/-- The state t after the command of latch l completed, with the bytes of `unsettled` drawn anew. Nothing
changes unless the host broke its duty of R88. -/
def settle (l : Latch) (i : Option Instr) (t : State) : State :=
  if l.disturbed.isEmpty then t
  else { t with dmem := t.dmem.scramble t.draws (unsettled t.cfg l i), draws := t.draws + 1 }

/-- An outcome's next state changed by f; a stop stays as it is. -/
def mapNext (f : State → State) : Result → Result
  | .next t => .next (f t)
  | .fault r => .fault r
  | .refused r => .refused r

/-- The engine's step (R81): when BUSY = 1, the latched word's command runs and completes; an illegal word
completes with ILLEGAL_COMMAND (R110). When BUSY = 0 the step is not enabled and the engine holds its
state (R89). -/
def engineStep (s : State) : Result :=
  match s.running with
  | none => .next s
  | some l =>
    match decode l.cmd with
    | .ok i => mapNext (settle l (some i)) (exec i s)
    | .error _ => .next (settle l none (s.failed .illegalCommand))

end Sys2Proof.Machine
end

