-- ==== Sys2Proof/Machine/Step.lean ====
section
/-! DEFINITION. One step of the machine: the next event of the total order (spec/20_memory.md rule R82), or,
with no event to come, the engine's own step (R81, weak fairness). -/

namespace Sys2Proof.Machine

/-- One step. With no event and no running command the machine holds its state (R89). -/
def step (s : State) : Host.Outcome State Fault Refusal :=
  match s.pending with
  | [] => engineStep s
  | .engine :: es => engineStep { s with pending := es }
  | .write off v :: es => .next (hostWrite { s with pending := es } off v)
  | .read off :: es => .next (hostRead { s with pending := es } off)
  | .reset :: es => .next (resetEvent { s with pending := es })

/-- s with the command word accepted (R51) and the engine's step next, so that `step` decodes and runs it
(notes/assumptions/4.md). A table word wider than a command word is no command. -/
def State.withFetchWord (s : State) (nbits w : Nat) : State :=
  { accept s ((tableWord nbits w).getD 0xFFFFFFFF) with pending := .engine :: s.pending }

end Sys2Proof.Machine
end

