-- ==== Sys2Proof/Safety.lean ====
section
/-! DEFINITION. The terms that claims use: the checks of each command in order (spec/60_exceptions.md rule R321),
the invariant of the machine's state, and the host's duties (spec/20_memory.md rule R88). -/

namespace Sys2Proof.Machine

/-- The commands that raise NO_KEY when KEYV = 0 (R242). -/
def needsKey : Instr → Bool
  | .rdrk _ | .ark _ | .encb | .decb | .cfgecb | .cfgcbc | .cfgctr => true
  | .nop | .keyld | .sbox _ | .isbox _ | .ldst | .stst | .subb | .isubb | .shr | .ishr | .mixc | .imixc | .setiv
  | .getiv | .rdctr | .ecbenc | .ecbdec | .cbcenc | .cbcdec | .ctrenc | .ctrdec => false

/-- The MODE a command requires (R243), if any. -/
def requiredMode : Instr → Option Mode
  | .setiv | .getiv | .cbcenc | .cbcdec => some .cbc
  | .rdctr | .ctrenc | .ctrdec => some .ctr
  | .ecbenc | .ecbdec => some .ecb
  | .nop | .keyld | .rdrk _ | .sbox _ | .isbox _ | .ldst | .stst | .subb | .isubb | .shr | .ishr | .mixc | .imixc
  | .ark _ | .encb | .decb | .cfgecb | .cfgcbc | .cfgctr => none

/-- A check: whether it fails, and the error it then raises. -/
abbrev Check := Bool × CmdError

/-- Each command's checks in the order of the table of R321, for the operands of latch l. The first check of every
command, ILLEGAL_COMMAND for the encoding, is the decoder's, but for the round-key index of ARK and RDRK, which
the syntax can name out of range. -/
def checks (i : Instr) (s : State) (l : Latch) : List Check :=
  let key : Check := (!s.keyv, .noKey)
  let mode (m : Mode) : Check := (decide (s.mode ≠ m), .wrongMode)
  let index (r : BitVec 4) : Check := (!ridxLegal r, .illegalCommand)
  let source (n : Nat) : Check := (rangeFails s l.src.toNat n, .range)
  let dest (n : Nat) : Check := (rangeFails s l.dst.toNat n, .range)
  let iv : Check := (decide (l.len.toNat ≠ 16), .invalidIvLength l.len)
  let input : Check := (decide (l.len.toNat % 16 ≠ 0), .invalidInputLength l.len)
  let overlap : Check := (overlapFails l.src.toNat l.dst.toNat l.len.toNat, .overlap)
  match i with
  | .nop | .sbox _ | .isbox _ | .subb | .isubb | .shr | .ishr | .mixc | .imixc => []
  | .keyld => [(decide (l.len.toNat ≠ 16), .invalidKeyLength l.len), source 16]
  | .rdrk r => [index r, key, dest 16]
  | .ark r => [index r, key]
  | .encb | .decb | .cfgecb => [key]
  | .ldst => [source 16]
  | .stst => [dest 16]
  | .cfgcbc => [key, iv, source 16]
  | .cfgctr => [key, source l.len.toNat]
  | .setiv => [mode .cbc, iv, source 16]
  | .getiv => [mode .cbc, dest 16]
  | .rdctr => [mode .ctr, dest 16]
  | .ecbenc | .ecbdec => [mode .ecb, input, source l.len.toNat, dest l.len.toNat, overlap]
  | .cbcenc | .cbcdec => [mode .cbc, input, source l.len.toNat, dest l.len.toNat, overlap]
  | .ctrenc | .ctrdec => [mode .ctr, source l.len.toNat, dest l.len.toNat, overlap]

/-- No check of the command fails. -/
def passes (i : Instr) (s : State) (l : Latch) : Bool := (checks i s l).all fun c => !c.1

/-- What holds of the machine's state at reset and after every step. -/
structure State.Inv (s : State) : Prop where
  /-- The parameters keep a legal value (R10). -/
  legal : s.cfg.legal = true
  /-- "MODE ≠ NONE implies KEYV = 1" (R47). -/
  keyed : s.mode ≠ .none → s.keyv = true
  /-- While KEYV = 1 the schedule is the expansion of the key in RK[0] (R33, R34). -/
  schedule : s.keyv = true → s.rk = expandKey (roundKeyAt s.rk 0)
  /-- While KEYV = 0 the schedule still has its reset value (R33, R34). -/
  unkeyed : s.keyv = false → s.rk = Schedule.zero
  /-- "bits 31:8 are always 0" of RESULT (R39). -/
  resultByte : s.result.toNat < 256
  /-- ERRCODE and ERRLEN are 0 while ERR = 0 (R48). -/
  quiet : s.err = false → s.errcode = 0 ∧ s.errlen = 0
  /-- ERRCODE is one of 1 to 8 while ERR = 1: codes 9 to 15 are never produced (R320). -/
  coded : s.err = true → 1 ≤ s.errcode.toNat ∧ s.errcode.toNat ≤ 8
  /-- ERRLEN is not 0 only for the codes 1 to 3 (R48, R325). -/
  lengthed : s.errlen ≠ 0 → s.errcode.toNat ≤ 3
  /-- DMEM keeps its canonical form. -/
  memoryForm : s.dmem.wf
  /-- Every written byte is at an offset of DMEM (R42). -/
  memoryInside : ∀ c ∈ s.dmem.cells, c.1 < s.cfg.dmemSize
  /-- The draw that DMEM stands on has been taken. -/
  drawn : s.dmem.draw < s.draws
  /-- A running command's word is CMDR (R41, R51), and the error fields are clear (R324). -/
  latched : ∀ l, s.running = some l → s.cmdr = l.cmd ∧ s.err = false
  /-- The bytes the host touched are footprint bytes of the running command, each once (R83). -/
  disturbed : ∀ l, s.running = some l →
    l.disturbed.Nodup ∧ ∀ a ∈ l.disturbed, inFootprint l a = true ∧ a < s.cfg.dmemSize

/-- The event keeps the host's duties of R88: CMD is written only while BUSY = 0, and no DMEM word of a running
command's footprint is read or written. CMD, ERRLEN and RESULT are read only while BUSY = 0; STATUS may be
read at any time, for its BUSY bit. -/
def dutiful (s : State) : Event → Bool
  | .write off _ =>
    match regionOf s.cfg off with
    | .cmd => !s.busy
    | .dmem a => !s.wordGuarded a
    | .status | .errlen | .src | .dst | .len | .result | .reserved => true
  | .read off =>
    match regionOf s.cfg off with
    | .cmd | .errlen | .result => !s.busy
    | .dmem a => !s.wordGuarded a
    | .status | .src | .dst | .len | .reserved => true
  | .engine => true
  | .reset => true

/-- No host access has touched the running command's footprint. -/
def State.undisturbed (s : State) : Bool :=
  match s.running with
  | some l => l.disturbed.isEmpty
  | none => true

/-- A safe run of k steps: the machine steps k times, and every event in front keeps the host's duties. -/
def SafeRun : Nat → State → State → Prop
  | 0, s, t => s = t
  | k + 1, s, t => (∀ e ∈ s.pending.head?, dutiful s e = true) ∧ ∃ u, step s = .next u ∧ SafeRun k u t

/-! What claims say of byte strings and outputs. -/

/-- Block i of a byte string: `b[16i +: 16]` (R13). -/
def blockNo (bs : List Byte) (i : Nat) : Block := blockOfBytes ((bs.drop (16 * i)).take 16)

/-- The affine map A of R142, bit by bit, with c = 0x63. -/
def affineMap (b : Byte) : Byte :=
  BitVec.ofFnLE fun i : Fin 8 =>
    b.getLsbD i ^^ b.getLsbD ((i + 4) % 8) ^^ b.getLsbD ((i + 5) % 8) ^^ b.getLsbD ((i + 6) % 8) ^^
      b.getLsbD ((i + 7) % 8) ^^ (0x63 : Byte).getLsbD i

/-- The mode function `F_X` of a data command X (R250) on the input bytes: the output bytes and the counter after
it. None for every other command. -/
def dataOutput (i : Instr) (s : State) (inp : List Byte) : Option (List Byte × Counter) :=
  match i with
  | .ecbenc => some (ecbEncrypt s.rk inp, s.ctr)
  | .ecbdec => some (ecbDecrypt s.rk inp, s.ctr)
  | .cbcenc => some (cbcEncrypt s.rk s.iv inp, s.ctr)
  | .cbcdec => some (cbcDecrypt s.rk s.iv inp, s.ctr)
  | .ctrenc | .ctrdec => some (ctrCrypt s.rk s.ctr inp)
  | .nop | .keyld | .rdrk _ | .sbox _ | .isbox _ | .ldst | .stst | .subb | .isubb | .shr | .ishr | .mixc | .imixc
  | .ark _ | .encb | .decb | .cfgecb | .cfgcbc | .cfgctr | .setiv | .getiv | .rdctr => none

/-- The block that a storing command writes at DST (R171, R207, R248, R249). None for every other command. -/
def storedBlock (i : Instr) (s : State) : Option Block :=
  match i with
  | .stst => some s.state
  | .rdrk r => some (roundKeyAt s.rk r.toNat)
  | .getiv => some s.iv
  | .rdctr => some (toBE16 s.ctr)
  | .nop | .keyld | .sbox _ | .isbox _ | .ldst | .subb | .isubb | .shr | .ishr | .mixc | .imixc | .ark _ | .encb
  | .decb | .cfgecb | .cfgcbc | .cfgctr | .setiv | .ecbenc | .ecbdec | .cbcenc | .cbcdec | .ctrenc | .ctrdec => none

end Sys2Proof.Machine
end

