-- ==== Sys2Proof/Certificates/Slice0/Obligations.lean ====
section
/-! DEFINITION. The statements for the provers: what the numbered rules of spec/ say the commands, the host's
accesses, reset and the machine's step do. -/

open Sys2Proof Sys2Proof.Machine

/-! Encoding (spec/30_encoding.md). -/

/-- R109, R111: decoding a well-formed command's word gives that command, with every operand. -/
def Obligations.DecodeOfEncode : Prop :=
  ∀ i : Instr, i.wellFormed = true → decode (encode i) = .ok i

/-- R111: a word that decodes to a command is that command's one encoding, so no bit of a word is dropped. -/
def Obligations.EncodeOfDecode : Prop :=
  ∀ (w : Word) (i : Instr), decode w = .ok i → i.wellFormed = true ∧ encode i = w

/-- R109: a word decodes to the command of a row exactly when the row's mask, match and index bound select it; the
table has 28 rows and no word matches two of them. -/
def Obligations.OpcodeTableSelectsCommand : Prop :=
  opcodeTable.length = 28 ∧
  (∀ row ∈ opcodeTable, ∀ w : Word,
    (∃ i, decode w = .ok i ∧ i.mnemonic = row.mnemonic) ↔
      (w &&& row.mask = row.pattern ∧ (row.mnemonic = "ARK" ∨ row.mnemonic = "RDRK" → (w.extractLsb' 20 4).toNat ≤ 10))) ∧
  opcodeTable.Pairwise fun p q => ∀ w : Word, ¬ (w &&& p.mask = p.pattern ∧ w &&& q.mask = q.pattern)

/-- R110: the words that decode to no command are exactly those of its clauses (a) to (e), and an accepted one completes
with ILLEGAL_COMMAND and changes no other state. -/
def Obligations.IllegalWordsAreThoseListed : Prop :=
  (∀ (s : State) (l : Latch), s.running = some l → (∀ i, decode l.cmd ≠ .ok i) → l.disturbed = [] →
    engineStep s = .next { s with running := none, err := true, errcode := 4, errlen := 0 }) ∧
  ∀ w : Word,
    let opc := (w.extractLsb' 24 8).toNat
    let ridx := (w.extractLsb' 20 4).toNat
    let rsv := (w.extractLsb' 8 12).toNat
    let imm8 := (w.extractLsb' 0 8).toNat
    (∀ i, decode w ≠ .ok i) ↔
      ((0x01 ≤ opc ∧ opc ≤ 0x0F) ∨ (0x12 ≤ opc ∧ opc ≤ 0x1F) ∨ (0x22 ≤ opc ∧ opc ≤ 0x2F) ∨
        (0x39 ≤ opc ∧ opc ≤ 0x3F) ∨ (0x42 ≤ opc ∧ opc ≤ 0x4F) ∨ (0x56 ≤ opc ∧ opc ≤ 0x5F) ∨ 0x66 ≤ opc) ∨
      rsv ≠ 0 ∨
      (ridx ≠ 0 ∧ opc ≠ 0x38 ∧ opc ≠ 0x11) ∨
      (imm8 ≠ 0 ∧ opc ≠ 0x20 ∧ opc ≠ 0x21) ∨
      (10 < ridx ∧ (opc = 0x38 ∨ opc = 0x11))

/-- R115: the example words. -/
def Obligations.ExampleWordsDecode : Prop :=
  decode 0x38A00000 = .ok (.ark 10) ∧ decode 0x11100000 = .ok (.rdrk 1) ∧ decode 0x20000053 = .ok (.sbox 0x53) ∧
  decode 0x210000ED = .ok (.isbox 0xED) ∧ decode 0x65000000 = .ok .ctrdec ∧
  decode 0x38B00000 = .error .ridxOutOfRange ∧ decode 0x20000100 = .error .reservedBits ∧
  decode 0x30000001 = .error .strayImm8 ∧ decode 0x7F000000 = .error .unassignedOpcode

/-! The step (spec/20_memory.md section 4). -/

/-- R81: when a command is running and the engine's step comes next, the step decodes the latched word and runs
exactly that command; the event of the schedule, if any, is used up, and nothing else is added unless a
host write touched the command's footprint (R83). -/
def Obligations.StepRunsDecodedCommand : Prop :=
  ∀ (s : State) (l : Latch) (i : Instr) (es : List Event),
    s.running = some l → decode l.cmd = .ok i → (s.pending = .engine :: es ∨ (s.pending = [] ∧ es = [])) →
    step s = mapNext (settle l (some i)) (exec i { s with pending := es }) ∧
    (l.disturbed = [] → step s = exec i { s with pending := es })

/-- R110, R18, R80: an accepted illegal word completes with ILLEGAL_COMMAND, code 4, and changes no other state. -/
def Obligations.IllegalWordCompletes : Prop :=
  ∀ (s : State) (l : Latch) (es : List Event),
    s.running = some l → (∀ i, decode l.cmd ≠ .ok i) → l.disturbed = [] → s.pending = .engine :: es →
    step s = .next { s with pending := es, running := none, err := true, errcode := 4, errlen := 0 }

/-- R51, R324, R329, R41: a host write to CMD (any offset 0 to 3, R73) accepts the word while BUSY = 0: CMDR holds
it, BUSY becomes 1, the operands are latched and the error fields are cleared. While BUSY = 1 it sets OVR and
does nothing else. -/
def Obligations.CmdWriteAcceptsOrOverruns : Prop :=
  ∀ (s : State) (off w : Word) (es : List Event), s.pending = .write off w :: es → off.toNat < 4 →
    (s.busy = false →
      step s = .next { s with
        pending := es, cmdr := w, err := false, errcode := 0, errlen := 0
        running := some { cmd := w, src := s.src, dst := s.dst, len := s.len, disturbed := [] } }) ∧
    (s.busy = true → step s = .next { s with pending := es, ovr := true })

/-- R81: a host write of a command's word to an idle engine and the engine's step after it run that command on the
operands that SRC, DST and LEN held at the write. -/
def Obligations.SubmittedCommandRuns : Prop :=
  ∀ (s : State) (off : Word) (i : Instr) (es : List Event),
    i.wellFormed = true → s.busy = false → off.toNat < 4 →
    s.pending = .write off (encode i) :: .engine :: es →
    ∃ u, step s = .next u ∧ u.busy = true ∧ u.cmdr = encode i ∧
      step u = exec i { s with
        pending := es, cmdr := encode i, err := false, errcode := 0, errlen := 0
        running := some { cmd := encode i, src := s.src, dst := s.dst, len := s.len, disturbed := [] } }

/-- With no event to come, a running command completes in one step and an idle engine holds its state. R80 says that a
command completes after a finite time and R89 that an idle engine holds its state; that the engine's step is taken
at once when the list of events is at its end is the model's choice (notes/assumptions/7.md, and 3.md). -/
def Obligations.RunningCommandCompletes : Prop :=
  ∀ s : State, s.pending = [] →
    (s.busy = true → ∃ t, step s = .next t ∧ t.busy = false ∧ t.pending = []) ∧
    (s.busy = false → step s = .next s)

/-- R17: no command calls MemRead or MemWrite out of range, so while BUSY = 1 every command ends in a next state, and
no step of the machine ever stops. -/
def Obligations.MachineNeverStops : Prop :=
  (∀ (i : Instr) (s : State), s.busy = true → ∃ t, exec i s = .next t) ∧ ∀ s : State, ∃ t, step s = .next t

/-- R81: "The engine's execution step is enabled exactly when BUSY = 1." -/
def Obligations.ExecutionEnabledWhileBusy : Prop :=
  ∀ (i : Instr) (s : State), (∃ t, exec i s = .next t ∧ t.busy = false) ↔ s.busy = true

/-! Checks and errors (spec/60_exceptions.md). -/

/-- R321, R320: every command reports the first check that fails, in the order of the table, with the code of R320 and
the length of R325, and changes nothing but the error fields and BUSY; when none fails it completes without
recording an error. The index check of ARK and RDRK stands for check 4, as a term can name an index that no word
decodes to (notes/assumptions/12.md). -/
def Obligations.FirstFailingCheckIsReported : Prop :=
  ∀ (i : Instr) (s : State) (l : Latch), s.running = some l →
    (∀ e, (checks i s l).find? (·.1) = some (true, e) →
      exec i s = .next { s with
        running := none, err := true
        errcode := match e with
          | .invalidKeyLength _ => 1
          | .invalidIvLength _ => 2
          | .invalidInputLength _ => 3
          | .illegalCommand => 4
          | .noKey => 5
          | .wrongMode => 6
          | .range => 7
          | .overlap => 8
        errlen := match e with
          | .invalidKeyLength n | .invalidIvLength n | .invalidInputLength n => n
          | .illegalCommand | .noKey | .wrongMode | .range | .overlap => 0 }) ∧
    (passes i s l = true →
      ∃ t, exec i s = .next t ∧ t.busy = false ∧ t.err = s.err ∧ t.errcode = s.errcode ∧ t.errlen = s.errlen)

/-- R323, R18: a command that raises an error changes no state but ERR, ERRCODE, ERRLEN and BUSY, and ERRLEN is the
latched LEN for the codes 1 to 3 and 0 otherwise (R325). -/
def Obligations.FailedCommandChangesOnlyErrorFields : Prop :=
  ∀ (i : Instr) (s t : State) (l : Latch), s.running = some l → s.err = false → exec i s = .next t → t.err = true →
    t = { s with running := none, err := true, errcode := t.errcode, errlen := t.errlen } ∧
    1 ≤ t.errcode.toNat ∧ t.errcode.toNat ≤ 8 ∧
    t.errlen = if t.errcode.toNat ≤ 3 then l.len else 0

/-- R242: with KEYV = 0, exactly the seven named commands raise NO_KEY. -/
def Obligations.NoKeyIsRaisedBySevenCommands : Prop :=
  ∀ (i : Instr) (s : State), i.wellFormed = true → s.busy = true → s.err = false → s.keyv = false →
    (exec i s = .next { s with running := none, err := true, errcode := 5, errlen := 0 } ↔
      (∃ r, i = .rdrk r ∨ i = .ark r) ∨ i = .encb ∨ i = .decb ∨ i = .cfgecb ∨ i = .cfgcbc ∨ i = .cfgctr)

/-- R243: exactly the commands of the table raise WRONG_MODE, when MODE has not their value. -/
def Obligations.WrongModeIsRaisedByTable : Prop :=
  ∀ (i : Instr) (s : State), s.busy = true → s.err = false →
    (exec i s = .next { s with running := none, err := true, errcode := 6, errlen := 0 } ↔
      ((i = .setiv ∨ i = .getiv ∨ i = .cbcenc ∨ i = .cbcdec) ∧ s.mode ≠ .cbc) ∨
      ((i = .rdctr ∨ i = .ctrenc ∨ i = .ctrdec) ∧ s.mode ≠ .ctr) ∨
      ((i = .ecbenc ∨ i = .ecbdec) ∧ s.mode ≠ .ecb))

/-- R241: a range check passes exactly when every byte of the range is inside DMEM, and an overlap check passes exactly
when the ranges are the same or share no byte. -/
def Obligations.RangeAndOverlapChecks : Prop :=
  (∀ (s : State) (a n : Nat), rangeFails s a n = false ↔ ∀ k < n, a + k < s.cfg.dmemSize) ∧
  ∀ s d n : Nat, overlapFails s d n = false ↔ (s = d ∨ ∀ j < n, ∀ k < n, s + j ≠ d + k)

/-! What each command does, and what it leaves alone. -/

/-- R33 to R42, R48, R75: the only commands that change each register, and the only DMEM bytes that a command
changes. -/
def Obligations.OnlyNamedCommandsWriteEachRegister : Prop :=
  ∀ (i : Instr) (s t : State), exec i s = .next t →
    (t.rk ≠ s.rk → i = .keyld) ∧
    (t.keyv ≠ s.keyv → i = .keyld ∧ t.keyv = true) ∧
    (t.mode ≠ s.mode → i = .keyld ∨ i = .cfgecb ∨ i = .cfgcbc ∨ i = .cfgctr) ∧
    (t.state ≠ s.state → i = .ldst ∨ i = .subb ∨ i = .isubb ∨ i = .shr ∨ i = .ishr ∨ i = .mixc ∨ i = .imixc ∨
      (∃ r, i = .ark r) ∨ i = .encb ∨ i = .decb) ∧
    (t.iv ≠ s.iv → i = .cfgcbc ∨ i = .setiv) ∧
    (t.ctr ≠ s.ctr → i = .cfgctr ∨ i = .ctrenc ∨ i = .ctrdec) ∧
    (t.result ≠ s.result → ∃ a, i = .sbox a ∨ i = .isbox a) ∧
    t.src = s.src ∧ t.dst = s.dst ∧ t.len = s.len ∧ t.cmdr = s.cmdr ∧ t.ovr = s.ovr ∧ t.cfg = s.cfg ∧
    t.pending = s.pending ∧ t.reads = s.reads ∧ t.draws = s.draws ∧ t.running = none ∧
    ∀ x, t.dmem.read x ≠ s.dmem.read x →
      ∃ l, s.running = some l ∧ l.dst.toNat ≤ x ∧ x < l.dst.toNat + destLength i l.len.toNat

/-- R143, R144: SBOX and ISBOX leave the looked-up byte, zero-extended, in RESULT, and change nothing else. -/
def Obligations.SboxCommandsSetResult : Prop :=
  ∀ (s : State) (a : Byte), s.busy = true →
    exec (.sbox a) s = .next { s with running := none, result := (sboxOf a).setWidth 32 } ∧
    exec (.isbox a) s = .next { s with running := none, result := (invSboxOf a).setWidth 32 }

/-- R140 to R142: the two tables are inverse to each other, and the S-box is the affine map of the inverse in
GF(2^8), with 0 its own inverse. -/
def Obligations.SboxTablesAgreeWithDefinition : Prop :=
  ∀ a : Byte, invSboxOf (sboxOf a) = a ∧ sboxOf (invSboxOf a) = a ∧
    ∃ b, (a = 0 → b = 0) ∧ (a ≠ 0 → gmul a b = 1) ∧ sboxOf a = affineMap b

/-- R172 to R177: the six commands that transform STATE do that and nothing else, in any MODE and with no key. -/
def Obligations.TransformCommandsOnState : Prop :=
  ∀ s : State, s.busy = true →
    exec .subb s = .next { s with running := none, state := subBytes s.state } ∧
    exec .isubb s = .next { s with running := none, state := invSubBytes s.state } ∧
    exec .shr s = .next { s with running := none, state := shiftRows s.state } ∧
    exec .ishr s = .next { s with running := none, state := invShiftRows s.state } ∧
    exec .mixc s = .next { s with running := none, state := mixColumns s.state } ∧
    exec .imixc s = .next { s with running := none, state := invMixColumns s.state }

/-- R178, R224, R225: with a key loaded, ARK, ENCB and DECB replace STATE and change nothing else. -/
def Obligations.KeyedStateCommands : Prop :=
  ∀ (s : State) (r : BitVec 4), s.busy = true → s.keyv = true →
    (r.toNat ≤ 10 →
      exec (.ark r) s = .next { s with running := none, state := addRoundKey s.state (roundKeyAt s.rk r.toNat) }) ∧
    exec .encb s = .next { s with running := none, state := cipher s.rk s.state } ∧
    exec .decb s = .next { s with running := none, state := invCipher s.rk s.state }

/-- R170: with its 16 bytes inside DMEM, LDST puts DMEM[SRC + k] in byte k of STATE and changes nothing else. -/
def Obligations.LdstLoadsState : Prop :=
  ∀ (s : State) (l : Latch), s.running = some l → l.src.toNat + 16 ≤ s.cfg.dmemSize →
    ∃ b : Block, exec .ldst s = .next { s with running := none, state := b } ∧
      ∀ k < 16, byteAt b k = s.dmem.read (l.src.toNat + k)

/-- R171, R207, R248, R249: STST, RDRK, GETIV and RDCTR, when none of their checks fails, store their block at DST
and change no other byte of DMEM and no register. -/
def Obligations.StoringCommandsWriteDst : Prop :=
  ∀ (i : Instr) (s : State) (l : Latch) (b : Block),
    s.running = some l → passes i s l = true → storedBlock i s = some b →
    ∃ m : Memory, exec i s = .next { s with running := none, dmem := m } ∧
      (∀ k < 16, m.read (l.dst.toNat + k) = byteAt b k) ∧
      ∀ x, x < l.dst.toNat ∨ l.dst.toNat + 16 ≤ x → m.read x = s.dmem.read x

/-- R241 to R243, R321: the conditions on the state and the operands under which no check of a storing or data command
fails, so that the two statements above and below say what the command does: its key or mode, its length, its
ranges inside DMEM (a range of length 0 always is), and its ranges the same or disjoint. -/
def Obligations.StoringAndDataCommandsPassChecks : Prop :=
  ∀ (s : State) (l : Latch),
    (l.dst.toNat + 16 ≤ s.cfg.dmemSize →
      passes .stst s l = true ∧
      (s.keyv = true → ∀ r : BitVec 4, r.toNat ≤ 10 → passes (.rdrk r) s l = true) ∧
      (s.mode = .cbc → passes .getiv s l = true) ∧
      (s.mode = .ctr → passes .rdctr s l = true)) ∧
    (l.len = 0 ∨
        (l.src.toNat + l.len.toNat ≤ s.cfg.dmemSize ∧ l.dst.toNat + l.len.toNat ≤ s.cfg.dmemSize ∧
          (l.src = l.dst ∨ l.src.toNat + l.len.toNat ≤ l.dst.toNat ∨ l.dst.toNat + l.len.toNat ≤ l.src.toNat)) →
      (s.mode = .ecb → l.len.toNat % 16 = 0 → passes .ecbenc s l = true ∧ passes .ecbdec s l = true) ∧
      (s.mode = .cbc → l.len.toNat % 16 = 0 → passes .cbcenc s l = true ∧ passes .cbcdec s l = true) ∧
      (s.mode = .ctr → passes .ctrenc s l = true ∧ passes .ctrdec s l = true))

/-- R206: KEYLD with LEN = 16 and its key inside DMEM loads all 11 round keys of the key at SRC, sets KEYV and clears
MODE, and changes nothing else; with any other LEN it fails with code 1 and that LEN, wherever SRC points. -/
def Obligations.KeyldLoadsSchedule : Prop :=
  ∀ (s : State) (l : Latch), s.running = some l →
    (l.len = 16 → l.src.toNat + 16 ≤ s.cfg.dmemSize →
      ∃ k : Block, (∀ j < 16, byteAt k j = s.dmem.read (l.src.toNat + j)) ∧
        exec .keyld s = .next { s with running := none, rk := expandKey k, keyv := true, mode := .none }) ∧
    (l.len ≠ 16 → exec .keyld s = .next { s with running := none, err := true, errcode := 1, errlen := l.len })

/-- R240, R244: NOP changes nothing; CFGECB, with a key loaded, sets MODE to ECB and changes nothing else. -/
def Obligations.NopAndCfgecb : Prop :=
  ∀ s : State, s.busy = true →
    exec .nop s = .next { s with running := none } ∧
    (s.keyv = true → exec .cfgecb s = .next { s with running := none, mode := .ecb })

/-- R245, R247: with LEN = 16 and the IV inside DMEM, CFGCBC (with a key) and SETIV (in CBC mode) load IV; CFGCBC also
sets MODE to CBC; nothing else changes. With another LEN they fail with code 2 and that LEN. -/
def Obligations.IvCommandsLoadIv : Prop :=
  ∀ (s : State) (l : Latch), s.running = some l →
    (l.len = 16 → l.src.toNat + 16 ≤ s.cfg.dmemSize →
      ∃ v : Block, (∀ j < 16, byteAt v j = s.dmem.read (l.src.toNat + j)) ∧
        (s.keyv = true → exec .cfgcbc s = .next { s with running := none, iv := v, mode := .cbc }) ∧
        (s.mode = .cbc → exec .setiv s = .next { s with running := none, iv := v })) ∧
    (l.len ≠ 16 →
      (s.keyv = true →
        exec .cfgcbc s = .next { s with running := none, err := true, errcode := 2, errlen := l.len }) ∧
      (s.mode = .cbc →
        exec .setiv s = .next { s with running := none, err := true, errcode := 2, errlen := l.len }))

/-- R246: with a key and its seed inside DMEM (any LEN), CFGCTR sets CTR to the big-endian seed mod 2^128, which is
that of the seed's last min(LEN, 16) bytes, sets MODE to CTR, and changes nothing else. -/
def Obligations.CfgctrLoadsSeed : Prop :=
  ∀ (s : State) (l : Latch), s.running = some l → s.keyv = true →
    (l.len = 0 ∨ l.src.toNat + l.len.toNat ≤ s.cfg.dmemSize) →
    ∃ c : Counter, exec .cfgctr s = .next { s with running := none, ctr := c, mode := .ctr } ∧
      c.toNat = bigEndian (s.dmem.readBytes l.src.toNat l.len.toNat) % 2 ^ 128 ∧
      c.toNat = bigEndian ((s.dmem.readBytes l.src.toNat l.len.toNat).drop (l.len.toNat - 16))

/-- R250, R251: a data command none of whose checks fails writes exactly LEN output bytes of its mode function to
[DST, DST+LEN), leaves every other byte of DMEM, and changes no register but CTR. -/
def Obligations.DataCommandsWriteOutput : Prop :=
  ∀ (i : Instr) (s : State) (l : Latch) (out : List Byte) (c : Counter),
    s.running = some l → passes i s l = true →
    dataOutput i s (s.dmem.readBytes l.src.toNat l.len.toNat) = some (out, c) →
    ∃ m : Memory, exec i s = .next { s with running := none, dmem := m, ctr := c } ∧
      out.length = l.len.toNat ∧
      (∀ k < l.len.toNat, m.read (l.dst.toNat + k) = out.getD k 0) ∧
      ∀ x, x < l.dst.toNat ∨ l.dst.toNat + l.len.toNat ≤ x → m.read x = s.dmem.read x

/-! The algorithms. -/

/-- R201: the loop of KeyExpansion, byte by byte, for the 44 words of any key. -/
def Obligations.KeyExpansionRecurrence : Prop :=
  ∀ k : Block,
    let w := fun i j : Nat => colByte ((keyWords k).getD i Column.zero) j
    (keyWords k).length = 44 ∧
    (∀ i < 4, ∀ j < 4, w i j = byteAt k (4 * i + j)) ∧
    ∀ i, 4 ≤ i → i < 44 → ∀ j < 4,
      w i j = w (i - 4) j ^^^
        (if i % 4 = 0 then sboxOf (w (i - 1) ((j + 1) % 4)) ^^^ (if j = 0 then rcon (i / 4) else 0) else w (i - 1) j)

/-- R202: RK[r] is the words 4r to 4r+3 joined, and RK[0] is the key. -/
def Obligations.RoundKeysJoinWords : Prop :=
  ∀ k : Block, roundKeyAt (expandKey k) 0 = k ∧
    ∀ r ≤ 10, ∀ i < 16,
      byteAt (roundKeyAt (expandKey k) r) i = colByte ((keyWords k).getD (4 * r + i / 4) Column.zero) (i % 4)

/-- R203: the round constants are successive doublings. -/
def Obligations.RoundConstantsDouble : Prop :=
  rcon 1 = 0x01 ∧ (∀ j, 1 ≤ j → j ≤ 9 → rcon (j + 1) = xtime (rcon j)) ∧
    xtime 0x80 = 0x1B ∧ xtime 0x1B = 0x36

/-- R162, R163, R174, R175: the rows rotate left and right by their number; four SHR restore STATE and ISHR has the
effect of three. -/
def Obligations.ShiftRowsRotatesRows : Prop :=
  ∀ b : Block,
    (∀ r < 4, ∀ c < 4, elemAt (shiftRows b) r c = elemAt b r ((c + r) % 4)) ∧
    (∀ r < 4, ∀ c < 4, elemAt (invShiftRows b) r ((c + r) % 4) = elemAt b r c) ∧
    shiftRows (shiftRows (shiftRows (shiftRows b))) = b ∧
    invShiftRows b = shiftRows (shiftRows (shiftRows b))

/-- R166: AddRoundKey is the byte-by-byte XOR and undoes itself. -/
def Obligations.AddRoundKeySelfInverse : Prop :=
  ∀ b k : Block, (∀ i < 16, byteAt (addRoundKey b k) i = byteAt b i ^^^ byteAt k i) ∧
    addRoundKey (addRoundKey b k) k = b

/-- R167: each inverse undoes its step, in both orders; the byte steps commute with the row steps; MixColumns is
linear. -/
def Obligations.RoundStepLaws : Prop :=
  ∀ a b : Block,
    invSubBytes (subBytes b) = b ∧ subBytes (invSubBytes b) = b ∧
    invShiftRows (shiftRows b) = b ∧ shiftRows (invShiftRows b) = b ∧
    invMixColumns (mixColumns b) = b ∧ mixColumns (invMixColumns b) = b ∧
    subBytes (shiftRows b) = shiftRows (subBytes b) ∧ subBytes (invShiftRows b) = invShiftRows (subBytes b) ∧
    invSubBytes (shiftRows b) = shiftRows (invSubBytes b) ∧
    invSubBytes (invShiftRows b) = invShiftRows (invSubBytes b) ∧
    mixColumns (xorBlock a b) = xorBlock (mixColumns a) (mixColumns b) ∧ mixColumns Block.zero = Block.zero

/-- R220, R221, R222: Cipher and InvCipher run the rounds of their rules, `x r` being the block after round r; for every
schedule they undo each other, so both are permutations of the blocks. The two steps that R221 lets a schedule
swap commute. -/
def Obligations.InvCipherInvertsCipher : Prop :=
  ∀ rk : Schedule,
    (∀ b, ∃ x : Nat → Block, x 0 = addRoundKey b (roundKeyAt rk 0) ∧
      (∀ r, 1 ≤ r → r ≤ 9 → x r = addRoundKey (mixColumns (shiftRows (subBytes (x (r - 1))))) (roundKeyAt rk r)) ∧
      cipher rk b = addRoundKey (shiftRows (subBytes (x 9))) (roundKeyAt rk 10)) ∧
    (∀ b, ∃ x : Nat → Block, x 10 = invSubBytes (invShiftRows (addRoundKey b (roundKeyAt rk 10))) ∧
      (∀ r, 1 ≤ r → r ≤ 9 →
        x r = invSubBytes (invShiftRows (invMixColumns (addRoundKey (x (r + 1)) (roundKeyAt rk r))))) ∧
      invCipher rk b = addRoundKey (x 1) (roundKeyAt rk 0)) ∧
    (∀ b, invSubBytes (invShiftRows b) = invShiftRows (invSubBytes b)) ∧
    (∀ b, invCipher rk (cipher rk b) = b) ∧ (∀ b, cipher rk (invCipher rk b) = b) ∧
    Function.Bijective (cipher rk) ∧ Function.Bijective (invCipher rk)

/-- R270 to R272: ECB output block i is Cipher or InvCipher of input block i alone, and the output is as long as the
input. -/
def Obligations.EcbBlocksAreIndependent : Prop :=
  ∀ (rk : Schedule) (inp : List Byte), inp.length % 16 = 0 →
    (ecbEncrypt rk inp).length = inp.length ∧ (ecbDecrypt rk inp).length = inp.length ∧
    ∀ i < inp.length / 16,
      blockNo (ecbEncrypt rk inp) i = cipher rk (blockNo inp i) ∧
      blockNo (ecbDecrypt rk inp) i = invCipher rk (blockNo inp i)

/-- R280, R281: each CBC block is chained to the ciphertext block before it, the first to the IV. -/
def Obligations.CbcBlocksChain : Prop :=
  ∀ (rk : Schedule) (iv : Block) (inp : List Byte), inp.length % 16 = 0 →
    (cbcEncrypt rk iv inp).length = inp.length ∧ (cbcDecrypt rk iv inp).length = inp.length ∧
    ∀ i < inp.length / 16,
      blockNo (cbcEncrypt rk iv inp) i =
        cipher rk (xorBlock (blockNo inp i) (if i = 0 then iv else blockNo (cbcEncrypt rk iv inp) (i - 1))) ∧
      blockNo (cbcDecrypt rk iv inp) i =
        xorBlock (invCipher rk (blockNo inp i)) (if i = 0 then iv else blockNo inp (i - 1))

/-- R285: a CBC message split at a block boundary gives the same bytes when the second part starts from the last
ciphertext block of the first. -/
def Obligations.CbcContinuesFromLastBlock : Prop :=
  ∀ (rk : Schedule) (iv : Block) (x y : List Byte), x.length % 16 = 0 → 0 < x.length → y.length % 16 = 0 →
    cbcEncrypt rk iv (x ++ y) =
      cbcEncrypt rk iv x ++ cbcEncrypt rk (blockNo (cbcEncrypt rk iv x) (x.length / 16 - 1)) y ∧
    cbcDecrypt rk iv (x ++ y) = cbcDecrypt rk iv x ++ cbcDecrypt rk (blockNo x (x.length / 16 - 1)) y

/-- R283: flipping a bit of plaintext block i of a CBC message changes every ciphertext block from i to the last and
none before it. -/
def Obligations.CbcDiffusion : Prop :=
  ∀ (rk : Schedule) (iv : Block) (x y : List Byte) (i : Nat),
    x.length = y.length → x.length % 16 = 0 → i < x.length / 16 →
    blockNo x i ≠ blockNo y i → (∀ j < x.length / 16, j ≠ i → blockNo x j = blockNo y j) →
    ∀ j < x.length / 16,
      (j < i → blockNo (cbcEncrypt rk iv x) j = blockNo (cbcEncrypt rk iv y) j) ∧
      (i ≤ j → blockNo (cbcEncrypt rk iv x) j ≠ blockNo (cbcEncrypt rk iv y) j)

/-- R300, R301, R304, R305: output byte n of a CTR command is input byte n XOR byte n mod 16 of the keystream block of
counter CTR + n / 16 (mod 2^128), and the counter advances by ceil(LEN / 16). -/
def Obligations.CtrStreamBytes : Prop :=
  ∀ (rk : Schedule) (c : Counter) (inp : List Byte),
    (ctrCrypt rk c inp).1.length = inp.length ∧
    (∀ n < inp.length, (ctrCrypt rk c inp).1.getD n 0 =
      inp.getD n 0 ^^^ byteAt (cipher rk (toBE16 (c + BitVec.ofNat 128 (n / 16)))) (n % 16)) ∧
    (ctrCrypt rk c inp).2.toNat = (c.toNat + (inp.length + 15) / 16) % 2 ^ 128

/-- R306: a CTR stream split at a multiple of 16 gives the same bytes and the same final counter. -/
def Obligations.CtrStreamSplits : Prop :=
  ∀ (rk : Schedule) (c : Counter) (x y : List Byte), x.length % 16 = 0 →
    (ctrCrypt rk c (x ++ y)).1 = (ctrCrypt rk c x).1 ++ (ctrCrypt rk (ctrCrypt rk c x).2 y).1 ∧
    (ctrCrypt rk c (x ++ y)).2 = (ctrCrypt rk (ctrCrypt rk c x).2 y).2

/-- R271, R281, R302: under one key, decryption gives back what encryption took, in each mode. -/
def Obligations.DecryptionInvertsEncryption : Prop :=
  ∀ (rk : Schedule) (iv : Block) (c : Counter) (inp : List Byte),
    (inp.length % 16 = 0 →
      ecbDecrypt rk (ecbEncrypt rk inp) = inp ∧ cbcDecrypt rk iv (cbcEncrypt rk iv inp) = inp) ∧
    (ctrCrypt rk c (ctrCrypt rk c inp).1).1 = inp

/-- R15, R72: ToBE16 and BE undo each other, so a counter stored by RDCTR and loaded by CFGCTR is the same. -/
def Obligations.CounterBytesRoundTrip : Prop :=
  (∀ v : Counter, bigEndian (blockBytes (toBE16 v)) = v.toNat) ∧
  ∀ b : Block, toBE16 (BitVec.ofNat 128 (bigEndian (blockBytes b))) = b

/-! The host's side (spec/10_state.md section 6, spec/20_memory.md sections 2 to 5). -/

/-- R50: the fields of STATUS, with the values of MODE of R35. -/
def Obligations.StatusFields : Prop :=
  ∀ s : State,
    s.status.getLsbD 0 = s.busy ∧ s.status.getLsbD 1 = s.err ∧ s.status.getLsbD 2 = s.ovr ∧
    s.status.getLsbD 3 = s.keyv ∧ s.status.extractLsb' 6 2 = 0 ∧
    (s.mode = .none → s.status.extractLsb' 4 2 = 0) ∧ (s.mode = .ecb → s.status.extractLsb' 4 2 = 1) ∧
    (s.mode = .cbc → s.status.extractLsb' 4 2 = 2) ∧ (s.mode = .ctr → s.status.extractLsb' 4 2 = 3) ∧
    s.status.extractLsb' 8 4 = s.errcode ∧ s.status.extractLsb' 12 20 = 0

/-- R49 to R56: what each offset of the window reads as while BUSY = 0; every word access goes to the aligned offset
(R73), DMEM is little-endian (R70), and every other offset reads 0 (R55). That this holds of offsets above the top of the
window too is the model's choice (notes/assumptions/10.md). -/
def Obligations.IdleReadsFollowRegisterMap : Prop :=
  ∀ (s : State) (off : Word) (es : List Event), s.busy = false → s.pending = .read off :: es →
    ∃ v : Word, step s = .next { s with pending := es, reads := v :: s.reads, draws := s.draws + 1 } ∧
      (off.toNat / 4 = 0 → v = s.cmdr) ∧ (off.toNat / 4 = 1 → v = s.status) ∧ (off.toNat / 4 = 2 → v = s.errlen) ∧
      (off.toNat / 4 = 3 → v = s.src) ∧ (off.toNat / 4 = 4 → v = s.dst) ∧ (off.toNat / 4 = 5 → v = s.len) ∧
      (off.toNat / 4 = 6 → v = s.result) ∧
      (∀ k, off.toNat / 4 = 0x400 + k → 4 * k + 4 ≤ s.cfg.dmemSize →
        ∀ j < 4, v.extractLsb' (8 * j) 8 = s.dmem.read (4 * k + j)) ∧
      ((7 ≤ off.toNat / 4 ∧ off.toNat / 4 < 0x400) ∨ (0x400 ≤ off.toNat / 4 ∧
        0x1000 + s.cfg.dmemSize < 4 * (off.toNat / 4) + 4) → v = 0)

/-- R57, R83, R55: while BUSY = 1 a read of STATUS has BUSY = 1, the true OVR and zero reserved bits; SRC, DST and LEN read
their true values; a DMEM word with no byte in the footprint reads its bytes; every other offset reads 0. What R57
and R83 leave unspecified reads the free word of the next draw: CMD, ERRLEN, RESULT, the other fields of STATUS and a
DMEM word with any byte in the footprint. That the clause on 0 holds of offsets above the top of the window too
is the model's choice (notes/assumptions/10.md). -/
def Obligations.BusyReadsThatAreSpecified : Prop :=
  ∀ (s : State) (off : Word) (es : List Event), s.busy = true → s.pending = .read off :: es →
    ∃ v : Word, step s = .next { s with pending := es, reads := v :: s.reads, draws := s.draws + 1 } ∧
      (off.toNat / 4 = 1 → v.getLsbD 0 = true ∧ v.getLsbD 2 = s.ovr ∧ v.extractLsb' 6 2 = 0 ∧
        v.extractLsb' 12 20 = 0) ∧
      (off.toNat / 4 = 3 → v = s.src) ∧ (off.toNat / 4 = 4 → v = s.dst) ∧ (off.toNat / 4 = 5 → v = s.len) ∧
      (∀ k, off.toNat / 4 = 0x400 + k → 4 * k + 4 ≤ s.cfg.dmemSize →
        (∀ j < 4, s.guarded (4 * k + j) = false) →
        ∀ j < 4, v.extractLsb' (8 * j) 8 = s.dmem.read (4 * k + j)) ∧
      ((7 ≤ off.toNat / 4 ∧ off.toNat / 4 < 0x400) ∨ (0x400 ≤ off.toNat / 4 ∧
        0x1000 + s.cfg.dmemSize < 4 * (off.toNat / 4) + 4) → v = 0) ∧
      (off.toNat / 4 = 0 ∨ off.toNat / 4 = 2 ∨ off.toNat / 4 = 6 → v = Config.freeWord s.draws) ∧
      (off.toNat / 4 = 1 → v &&& 0xF3A = Config.freeWord s.draws &&& 0xF3A) ∧
      (∀ k, off.toNat / 4 = 0x400 + k → 4 * k + 4 ≤ s.cfg.dmemSize →
        (∃ j < 4, s.guarded (4 * k + j) = true) → v = Config.freeWord s.draws)

/-- R50, R52 to R55: a host write to SRC, DST or LEN stores its value, at any time; one to STATUS clears OVR where bit 2
is 1 and changes nothing else; one to ERRLEN, RESULT or a reserved offset changes nothing. That offsets above the top of
the window are ignored too is the model's choice (notes/assumptions/10.md). -/
def Obligations.RegisterWrites : Prop :=
  ∀ (s : State) (off v : Word) (es : List Event), s.pending = .write off v :: es →
    (off.toNat / 4 = 3 → step s = .next { s with pending := es, src := v }) ∧
    (off.toNat / 4 = 4 → step s = .next { s with pending := es, dst := v }) ∧
    (off.toNat / 4 = 5 → step s = .next { s with pending := es, len := v }) ∧
    (off.toNat / 4 = 1 → step s = .next { s with pending := es, ovr := s.ovr && !v.getLsbD 2 }) ∧
    (off.toNat / 4 = 2 ∨ (6 ≤ off.toNat / 4 ∧ off.toNat / 4 < 0x400) ∨
      (0x400 ≤ off.toNat / 4 ∧ 0x1000 + s.cfg.dmemSize < 4 * (off.toNat / 4) + 4) →
      step s = .next { s with pending := es })

/-- R56, R70, R83: a host write to a DMEM word that no running command's footprint touches stores its four bytes, the
least significant at the lowest offset, and changes nothing else; its read gives the word back. A write to a word
with a byte in the footprint leaves DMEM at the footprint bytes as the command is to see it and records exactly
those bytes, which are free after completion (DisturbedFootprintIsFree); that the word's other bytes are stored is
the model's reading (notes/assumptions/8.md). -/
def Obligations.DmemWordWrites : Prop :=
  ∀ (s : State) (off v : Word) (k : Nat) (es : List Event),
    s.pending = .write off v :: es → off.toNat / 4 = 0x400 + k → 4 * k + 4 ≤ s.cfg.dmemSize →
    ((∀ j < 4, s.guarded (4 * k + j) = false) →
      ∃ m : Memory, step s = .next { s with pending := es, dmem := m } ∧
        (∀ j < 4, m.read (4 * k + j) = v.extractLsb' (8 * j) 8) ∧
        (∀ x, x < 4 * k ∨ 4 * k + 4 ≤ x → m.read x = s.dmem.read x) ∧ m.readWord (4 * k) = v) ∧
    ∀ l, s.running = some l →
      ∃ (m : Memory) (d : List Nat),
        step s = .next { s with pending := es, dmem := m, running := some { l with disturbed := d } } ∧
        (∀ j < 4, m.read (4 * k + j) =
          if inFootprint l (4 * k + j) = true then s.dmem.read (4 * k + j) else v.extractLsb' (8 * j) 8) ∧
        (∀ x, x < 4 * k ∨ 4 * k + 4 ≤ x → m.read x = s.dmem.read x) ∧
        ∀ x, x ∈ d ↔ x ∈ l.disturbed ∨ (4 * k ≤ x ∧ x < 4 * k + 4 ∧ inFootprint l x = true)

/-- R76: a host read changes nothing of the engine, and while BUSY = 0 the same read again returns the same value. -/
def Obligations.HostReadsHaveNoSideEffect : Prop :=
  ∀ (s : State) (off : Word) (es : List Event), s.pending = .read off :: .read off :: es →
    ∃ t u, step s = .next t ∧ step t = .next u ∧
      { t with pending := s.pending, reads := s.reads, draws := s.draws } = s ∧
      { u with pending := s.pending, reads := s.reads, draws := s.draws } = s ∧
      (s.busy = false → ∃ v, u.reads = v :: v :: s.reads)

/-- R46: while BUSY = 1, what SRC, DST and LEN hold has no effect on the running command. -/
def Obligations.LatchedOperandsIsolateCommand : Prop :=
  ∀ (i : Instr) (s : State) (a b c : Word), s.busy = true →
    exec i { s with src := a, dst := b, len := c } =
      mapNext (fun t => { t with src := a, dst := b, len := c }) (exec i s)

/-- R37, R38, R243: outside its mode, IV and CTR have no effect: with another value there a command ends the same way but
for that register, and a command that enters the mode leaves no trace of the old value. -/
def Obligations.IvAndCtrHiddenOutsideTheirModes : Prop :=
  ∀ (i : Instr) (s : State), s.busy = true →
    (s.mode ≠ .cbc → ∀ v : Block,
      exec i { s with iv := v } = mapNext (fun t => if t.mode = .cbc then t else { t with iv := v }) (exec i s)) ∧
    (s.mode ≠ .ctr → ∀ c : Counter,
      exec i { s with ctr := c } = mapNext (fun t => if t.mode = .ctr then t else { t with ctr := c }) (exec i s))

/-- R83, R75: a command neither reads nor changes a DMEM byte outside its footprint: with another byte there it ends
with the same registers and the same bytes everywhere else. -/
def Obligations.CommandSeesOnlyItsFootprint : Prop :=
  ∀ (i : Instr) (s : State) (l : Latch) (a : Nat) (b : Byte),
    s.running = some l → decode l.cmd = .ok i → inFootprint l a = false →
    ∃ t u, exec i s = .next t ∧ exec i { s with dmem := s.dmem.write a b } = .next u ∧
      { u with dmem := t.dmem } = t ∧ ∀ x, u.dmem.read x = if x = a then b else t.dmem.read x

/-- R83: after a command whose footprint the host wrote, the bytes written and, if the command writes DMEM, the bytes of its
whole destination range hold free values, whether or not it failed a check (notes/assumptions/5.md); every other
byte and every register is as the command leaves it. -/
def Obligations.DisturbedFootprintIsFree : Prop :=
  ∀ (s : State) (l : Latch) (i : Instr) (es : List Event),
    s.running = some l → decode l.cmd = .ok i → l.disturbed ≠ [] → s.pending = .engine :: es →
    ∃ t u, exec i { s with pending := es } = .next t ∧ step s = .next u ∧
      { u with dmem := t.dmem, draws := t.draws } = t ∧ u.draws = t.draws + 1 ∧
      ∀ x, u.dmem.read x =
        if x ∈ l.disturbed ∨
          (x < s.cfg.dmemSize ∧ l.dst.toNat ≤ x ∧ x < l.dst.toNat + destLength i l.len.toNat) then
          Config.freeByte t.draws x
        else t.dmem.read x

/-- R88: in a run where the host keeps its duties, OVR is never set and no running command's footprint is touched. -/
def Obligations.DutifulHostNeverOverruns : Prop :=
  ∀ (k : Nat) (s t : State), SafeRun k s t → s.undisturbed = true → s.ovr = false →
    t.undisturbed = true ∧ t.ovr = false

/-! Reset (spec/70_reset_and_hazards.md) and the invariant. -/

/-- R361, R360, R364: the reset event, in any state, puts every register at the table's value and gives every DMEM byte a
fresh free value; STATUS then reads 0. That the parameters, the events to come and the host's read values are kept, and
that the model's draw counter moves on, are the model's (notes/assumptions/9.md and 6.md). -/
def Obligations.ResetEventGivesResetState : Prop :=
  ∀ (s : State) (es : List Event), s.pending = .reset :: es →
    ∃ t, step s = .next t ∧
      (∀ r ≤ 10, ∀ i < 16, byteAt (roundKeyAt t.rk r) i = 0) ∧ t.keyv = false ∧ t.mode = .none ∧
      (∀ i < 16, byteAt t.state i = 0) ∧ (∀ i < 16, byteAt t.iv i = 0) ∧ t.ctr = 0 ∧ t.result = 0 ∧
      t.src = 0 ∧ t.dst = 0 ∧ t.len = 0 ∧ t.cmdr = 0 ∧ t.busy = false ∧ t.err = false ∧ t.ovr = false ∧
      t.errcode = 0 ∧ t.errlen = 0 ∧ t.status = 0 ∧ t.running = none ∧
      (∀ x, t.dmem.read x = Config.freeByte s.draws x) ∧
      t.draws = s.draws + 1 ∧ t.cfg = s.cfg ∧ t.pending = es ∧ t.reads = s.reads

/-- R361, R47: the reset state meets the invariant, for every legal DMEM_SIZE and HOST_BASE. The parameters' values in
State.reset and the form of DMEM are the model's (notes/assumptions/1.md, 2.md and 6.md). -/
def Obligations.ResetMeetsInvariant : Prop :=
  State.reset.Inv ∧ ∀ c : Config, c.legal = true → (State.resetWith c).Inv

/-- R47, R33, R39, R41, R48, R320, R324, R42: every step of the machine, whatever the next event, keeps the
invariant. The clauses on the form of DMEM and on draws are the model's (notes/assumptions/2.md and 6.md). -/
def Obligations.StepKeepsInvariant : Prop :=
  ∀ s t : State, s.Inv → step s = .next t → t.Inv

/-! The round steps, byte by byte. -/

/-- R160, R161, R164, R165, with the arithmetic of R19: SubBytes and InvSubBytes look each byte up; MixColumns and
InvMixColumns multiply each column by their matrices. -/
def Obligations.RoundStepsByBytes : Prop :=
  (∀ a : Byte, xtime a = a <<< 1 ^^^ (if a.getLsbD 7 then 0x1B else 0)) ∧
  (∀ a b : Byte, gmul a b =
    (if b.getLsbD 0 then a else 0) ^^^ (if b.getLsbD 1 then xtime a else 0) ^^^
    (if b.getLsbD 2 then xtime (xtime a) else 0) ^^^ (if b.getLsbD 3 then xtime (xtime (xtime a)) else 0) ^^^
    (if b.getLsbD 4 then xtime (xtime (xtime (xtime a))) else 0) ^^^
    (if b.getLsbD 5 then xtime (xtime (xtime (xtime (xtime a)))) else 0) ^^^
    (if b.getLsbD 6 then xtime (xtime (xtime (xtime (xtime (xtime a))))) else 0) ^^^
    (if b.getLsbD 7 then xtime (xtime (xtime (xtime (xtime (xtime (xtime a)))))) else 0)) ∧
  ∀ b : Block,
    (∀ i < 16, byteAt (subBytes b) i = sboxOf (byteAt b i)) ∧
    (∀ i < 16, byteAt (invSubBytes b) i = invSboxOf (byteAt b i)) ∧
    (∀ c < 4,
      let s := fun r : Nat => elemAt b r c
      let m := fun r : Nat => elemAt (mixColumns b) r c
      m 0 = xtime (s 0) ^^^ (xtime (s 1) ^^^ s 1) ^^^ s 2 ^^^ s 3 ∧
      m 1 = s 0 ^^^ xtime (s 1) ^^^ (xtime (s 2) ^^^ s 2) ^^^ s 3 ∧
      m 2 = s 0 ^^^ s 1 ^^^ xtime (s 2) ^^^ (xtime (s 3) ^^^ s 3) ∧
      m 3 = (xtime (s 0) ^^^ s 0) ^^^ s 1 ^^^ s 2 ^^^ xtime (s 3)) ∧
    (∀ c < 4,
      let s := fun r : Nat => elemAt b r c
      let m := fun r : Nat => elemAt (invMixColumns b) r c
      m 0 = gmul (s 0) 0x0E ^^^ gmul (s 1) 0x0B ^^^ gmul (s 2) 0x0D ^^^ gmul (s 3) 0x09 ∧
      m 1 = gmul (s 0) 0x09 ^^^ gmul (s 1) 0x0E ^^^ gmul (s 2) 0x0B ^^^ gmul (s 3) 0x0D ∧
      m 2 = gmul (s 0) 0x0D ^^^ gmul (s 1) 0x09 ^^^ gmul (s 2) 0x0E ^^^ gmul (s 3) 0x0B ∧
      m 3 = gmul (s 0) 0x0B ^^^ gmul (s 1) 0x0D ^^^ gmul (s 2) 0x09 ^^^ gmul (s 3) 0x0E) ∧
    invMixColumns (mixColumns b) = b
end

