-- ==== Sys2Proof/Laws/Memory.lean ====
section
/-! SUPPORT. DMEM: a read after a write, what a write leaves alone, and that every memory operation keeps the
canonical form (Memory.wf). -/

namespace Sys2Proof.Machine

theorem lookupCell_insertCell_self (a : Nat) (b : Byte) (cs : List Host.Cell) :
    lookupCell (insertCell a b cs) a = some b := by
  induction cs with
  | nil => simp [insertCell, lookupCell]
  | cons c cs ih =>
    unfold insertCell
    split
    · simp [lookupCell]
    · split
      · simp [lookupCell]
      · rename_i h
        simp [lookupCell, Ne.symm h, ih]

theorem lookupCell_insertCell_ne {a a' : Nat} (b : Byte) (cs : List Host.Cell) (h : a' ≠ a) :
    lookupCell (insertCell a b cs) a' = lookupCell cs a' := by
  induction cs with
  | nil => simp [insertCell, lookupCell, Ne.symm h]
  | cons c cs ih =>
    unfold insertCell
    split
    · simp [lookupCell, Ne.symm h]
    · split
      · rename_i e
        subst e
        simp [lookupCell, Ne.symm h]
      · simp [lookupCell, ih]

/-- The addresses of an insertion are the new one and the old ones. -/
theorem mem_insertCell {a : Nat} {b : Byte} {cs : List Host.Cell} {x : Host.Cell}
    (h : x ∈ insertCell a b cs) : x = (a, b) ∨ x ∈ cs := by
  induction cs with
  | nil => simpa [insertCell] using h
  | cons c cs ih =>
    unfold insertCell at h
    split at h
    · simpa using h
    · split at h
      · rcases List.mem_cons.1 h with h | h
        · exact .inl h
        · exact .inr (List.mem_cons_of_mem _ h)
      · rcases List.mem_cons.1 h with h | h
        · exact .inr (h ▸ List.mem_cons_self)
        · exact (ih h).imp_right (List.mem_cons_of_mem _)

theorem insertCell_rising (a : Nat) (b : Byte) (cs : List Host.Cell)
    (h : cs.Pairwise fun x y => x.1 < y.1) : (insertCell a b cs).Pairwise fun x y => x.1 < y.1 := by
  induction cs with
  | nil => simp [insertCell]
  | cons c cs ih =>
    have hc := List.pairwise_cons.1 h
    unfold insertCell
    split
    · rename_i lt
      refine List.pairwise_cons.2 ⟨fun y hy => ?_, h⟩
      rcases List.mem_cons.1 hy with rfl | hy
      · exact lt
      · exact Nat.lt_trans lt (hc.1 y hy)
    · split
      · rename_i e
        subst e
        exact List.pairwise_cons.2 ⟨hc.1, hc.2⟩
      · rename_i h1 h2
        refine List.pairwise_cons.2 ⟨fun y hy => ?_, ih hc.2⟩
        rcases mem_insertCell hy with rfl | hy
        · show c.1 < a
          omega
        · exact hc.1 y hy

/-! One byte. -/

@[simp] theorem Memory.read_write_self (m : Memory) (a : Nat) (b : Byte) : (m.write a b).read a = b := by
  simp [Memory.read, Memory.write, lookupCell_insertCell_self]

theorem Memory.read_write_ne (m : Memory) {a a' : Nat} (b : Byte) (h : a' ≠ a) :
    (m.write a b).read a' = m.read a' := by
  simp [Memory.read, Memory.write, lookupCell_insertCell_ne b _ h]

@[simp] theorem Memory.write_draw (m : Memory) (a : Nat) (b : Byte) : (m.write a b).draw = m.draw := rfl

theorem Memory.write_wf {m : Memory} (h : m.wf) (a : Nat) (b : Byte) : (m.write a b).wf :=
  insertCell_rising a b m.cells h

/-! Strings. -/

@[simp] theorem Memory.writeBytes_draw (m : Memory) (a : Nat) (bs : List Byte) :
    (m.writeBytes a bs).draw = m.draw := by
  induction bs generalizing m a with
  | nil => rfl
  | cons b bs ih => simp [Memory.writeBytes, ih]

theorem Memory.writeBytes_wf {m : Memory} (h : m.wf) (a : Nat) (bs : List Byte) : (m.writeBytes a bs).wf := by
  induction bs generalizing m a with
  | nil => exact h
  | cons b bs ih => exact ih (Memory.write_wf h a b) (a + 1)

/-- A byte outside the stored string reads as before. -/
theorem Memory.read_writeBytes_outside (m : Memory) {a a' : Nat} (bs : List Byte)
    (h : a' < a ∨ a + bs.length ≤ a') : (m.writeBytes a bs).read a' = m.read a' := by
  induction bs generalizing m a with
  | nil => rfl
  | cons b bs ih =>
    simp only [List.length_cons] at h
    rw [Memory.writeBytes, ih (m.write a b) (a := a + 1) (by omega), Memory.read_write_ne _ _ (by omega)]

/-- Byte k of the stored string reads back at a + k. -/
theorem Memory.read_writeBytes_inside (m : Memory) (a : Nat) (bs : List Byte) {k : Nat} (h : k < bs.length) :
    (m.writeBytes a bs).read (a + k) = bs[k] := by
  induction bs generalizing m a k with
  | nil => simp at h
  | cons b bs ih =>
    cases k with
    | zero =>
      rw [Memory.writeBytes, Nat.add_zero, Memory.read_writeBytes_outside _ _ (by omega)]
      simp
    | succ k =>
      have := ih (m.write a b) (a + 1) (k := k) (by simpa using h)
      rw [Memory.writeBytes, show a + (k + 1) = a + 1 + k by omega, this]
      simp

@[simp] theorem Memory.readBytes_length (m : Memory) (a n : Nat) : (m.readBytes a n).length = n := by
  simp [Memory.readBytes]

theorem Memory.readBytes_getElem (m : Memory) (a n : Nat) {k : Nat} (h : k < (m.readBytes a n).length) :
    (m.readBytes a n)[k] = m.read (a + k) := by
  simp [Memory.readBytes]

/-- Two memories that agree on a range give the same string. -/
theorem Memory.readBytes_congr {m m' : Memory} {a n : Nat} (h : ∀ k < n, m.read (a + k) = m'.read (a + k)) :
    m.readBytes a n = m'.readBytes a n := by
  simp only [Memory.readBytes]
  exact List.map_congr_left fun k hk => h k (List.mem_range.1 hk)

/-! Free bytes. -/

@[simp] theorem Memory.scramble_draw (m : Memory) (d : Nat) (as : List Nat) : (m.scramble d as).draw = m.draw := by
  induction as generalizing m with
  | nil => rfl
  | cons a as ih => simp [Memory.scramble, ih]

theorem Memory.scramble_wf {m : Memory} (h : m.wf) (d : Nat) (as : List Nat) : (m.scramble d as).wf := by
  induction as generalizing m with
  | nil => exact h
  | cons a as ih => exact ih (Memory.write_wf h a _)

theorem Memory.read_scramble (m : Memory) (d : Nat) (as : List Nat) (a : Nat) :
    (m.scramble d as).read a = if a ∈ as then Config.freeByte d a else m.read a := by
  induction as generalizing m with
  | nil => simp [Memory.scramble]
  | cons x as ih =>
    rw [Memory.scramble, ih]
    by_cases e : a = x
    · subst e
      simp
    · simp [e, Memory.read_write_ne m _ e]

/-! Where the cells stand. -/

theorem Memory.cells_write {m : Memory} {n a : Nat} {b : Byte} (h : ∀ c ∈ m.cells, c.1 < n) (ha : a < n) :
    ∀ c ∈ (m.write a b).cells, c.1 < n := by
  intro c hc
  rcases mem_insertCell hc with rfl | hc
  · exact ha
  · exact h c hc

theorem Memory.cells_writeBytes {m : Memory} {n a : Nat} {bs : List Byte} (h : ∀ c ∈ m.cells, c.1 < n)
    (ha : bs = [] ∨ a + bs.length ≤ n) : ∀ c ∈ (m.writeBytes a bs).cells, c.1 < n := by
  induction bs generalizing m a with
  | nil => exact h
  | cons b bs ih =>
    have ha : a + (bs.length + 1) ≤ n := by simpa using ha
    exact ih (Memory.cells_write h (by omega)) (.inr (by omega))

theorem Memory.cells_scramble {m : Memory} {n d : Nat} {as : List Nat} (h : ∀ c ∈ m.cells, c.1 < n)
    (ha : ∀ a ∈ as, a < n) : ∀ c ∈ (m.scramble d as).cells, c.1 < n := by
  induction as generalizing m with
  | nil => exact h
  | cons a as ih =>
    exact ih (Memory.cells_write h (ha a List.mem_cons_self)) fun x hx => ha x (List.mem_cons_of_mem _ hx)

end Sys2Proof.Machine
end

