-- ==== Sys2Proof/Laws/Bus.lean ====
section
/-! SUPPORT. The host's window by word number (spec/20_memory.md rule R73) and the byte lanes of a DMEM word (R56). -/

namespace Sys2Proof.Machine

/-- An access goes to the aligned word that holds its offset (R73). -/
theorem alignedOffset_eq (off : Word) : alignedOffset off = 4 * (off.toNat / 4) := by
  have h : off &&& ~~~(3 : Word) = (off >>> 2) <<< 2 := by
    apply BitVec.eq_of_getLsbD_eq
    intro i hi
    interval_cases i <;> simp
  rw [alignedOffset, h, BitVec.toNat_shiftLeft, BitVec.toNat_ushiftRight, Nat.shiftRight_eq_div_pow,
    Nat.shiftLeft_eq, Nat.mod_eq_of_lt (by have := off.isLt; omega)]
  omega

/-- The register map of R49 by word number. -/
theorem regionOf_eq (c : Config) (off : Word) :
    regionOf c off =
      if off.toNat / 4 = 0 then .cmd else if off.toNat / 4 = 1 then .status else if off.toNat / 4 = 2 then .errlen
      else if off.toNat / 4 = 3 then .src else if off.toNat / 4 = 4 then .dst else if off.toNat / 4 = 5 then .len
      else if off.toNat / 4 = 6 then .result
      else if 0x400 ≤ off.toNat / 4 ∧ 4 * (off.toNat / 4) + 4 ≤ 0x1000 + c.dmemSize then
        .dmem (4 * (off.toNat / 4) - 0x1000)
      else .reserved := by
  simp only [regionOf, alignedOffset_eq]
  generalize off.toNat / 4 = n
  by_cases h : n < 7
  · interval_cases n <;> rfl
  · rw [if_neg (by omega), if_neg (by omega), if_neg (by omega), if_neg (by omega), if_neg (by omega),
      if_neg (by omega), if_neg (by omega)]
    conv_rhs =>
      rw [if_neg (by omega), if_neg (by omega), if_neg (by omega), if_neg (by omega), if_neg (by omega),
        if_neg (by omega), if_neg (by omega)]
    simp only [show 0x1000 ≤ 4 * n ↔ 0x400 ≤ n by omega]

/-- Byte lane j of a host read is DMEM byte a + j (R56, R70). -/
theorem Memory.readWord_lane (m : Memory) (a : Nat) {j : Nat} (hj : j < 4) :
    (m.readWord a).extractLsb' (8 * j) 8 = m.read (a + j) := by
  interval_cases j <;> apply BitVec.eq_of_getLsbD_eq <;> intro i hi <;> interval_cases i <;>
    simp [Memory.readWord]

end Sys2Proof.Machine
end

