-- ==== Sys2Proof/Laws/Bytes.lean ====
section
/-! SUPPORT. Blocks by their bytes and by their matrix elements. -/

namespace Sys2Proof.Machine

theorem byteAt_blockOf (f : Nat → Byte) {i : Nat} (h : i < 16) : byteAt (blockOf f) i = f i := by
  interval_cases i <;> rfl

theorem elemAt_matrixOf (f : Nat → Nat → Byte) {r c : Nat} (hr : r < 4) (hc : c < 4) :
    elemAt (matrixOf f) r c = f r c := by
  rw [elemAt, matrixOf, byteAt_blockOf _ (by omega), show (r + 4 * c) % 4 = r by omega,
    show (r + 4 * c) / 4 = c by omega]

/-- Two blocks with the same 16 bytes are equal. -/
theorem block_ext {a b : Block} (h : ∀ i < 16, byteAt a i = byteAt b i) : a = b := by
  apply Vector.ext
  intro i hi
  have := h i hi
  simpa [byteAt, hi] using this

/-- Two blocks with the same 16 matrix elements are equal (R14). -/
theorem matrix_ext {a b : Block} (h : ∀ r < 4, ∀ c < 4, elemAt a r c = elemAt b r c) : a = b := by
  apply block_ext
  intro i hi
  have := h (i % 4) (by omega) (i / 4) (by omega)
  rwa [elemAt, elemAt, show i % 4 + 4 * (i / 4) = i by omega] at this

@[simp] theorem blockOf_byteAt (b : Block) : blockOf (byteAt b) = b :=
  block_ext fun _ hi => byteAt_blockOf _ hi

@[simp] theorem blockBytes_length (b : Block) : (blockBytes b).length = 16 := by simp [blockBytes]

theorem blockBytes_getD (b : Block) (i : Nat) : (blockBytes b).getD i 0 = byteAt b i := by
  simp [blockBytes, byteAt]

@[simp] theorem blockOfBytes_blockBytes (b : Block) : blockOfBytes (blockBytes b) = b := by
  simp only [blockOfBytes, blockBytes_getD, blockOf_byteAt]

theorem byteAt_blockOfBytes (bs : List Byte) {i : Nat} (h : i < 16) : byteAt (blockOfBytes bs) i = bs.getD i 0 :=
  byteAt_blockOf _ h

theorem byteAt_xorBlock (a b : Block) {i : Nat} (h : i < 16) :
    byteAt (xorBlock a b) i = byteAt a i ^^^ byteAt b i := byteAt_blockOf _ h

/-- A block is its 16 bytes: back from a 16-byte string. -/
theorem blockBytes_blockOfBytes (bs : List Byte) (h : bs.length = 16) : blockBytes (blockOfBytes bs) = bs := by
  apply List.ext_getElem
  · simp [h]
  · intro i h1 h2
    have hi : i < 16 := by omega
    have e := blockBytes_getD (blockOfBytes bs) i
    rw [byteAt_blockOfBytes _ hi] at e
    rw [List.getD_eq_getElem _ _ h1, List.getD_eq_getElem _ _ h2] at e
    exact e

end Sys2Proof.Machine
end

