-- ==== Sys2Proof/Laws/Decode.lean ====
section
/-! SUPPORT. The fields of a command word, and what each form of the decoder accepts. -/

namespace Sys2Proof

/-- A word is its four fields (R101). -/
theorem word_eq_fields (w : Word) : w = opcField w ++ ridxField w ++ rsvField w ++ imm8Field w := by
  apply BitVec.eq_of_getLsbD_eq
  intro i hi
  simp only [opcField, ridxField, rsvField, imm8Field, BitVec.getLsbD_append, BitVec.getLsbD_extractLsb']
  interval_cases i <;> simp

section fields

variable (opc : Byte) (ridx : BitVec 4) (imm8 : Byte)

@[simp] theorem opcField_commandWord : opcField (commandWord opc ridx imm8) = opc := by
  apply BitVec.eq_of_getLsbD_eq
  intro i hi
  simp only [commandWord, opcField, BitVec.getLsbD_append, BitVec.getLsbD_extractLsb']
  interval_cases i <;> simp

@[simp] theorem ridxField_commandWord : ridxField (commandWord opc ridx imm8) = ridx := by
  apply BitVec.eq_of_getLsbD_eq
  intro i hi
  simp only [commandWord, ridxField, BitVec.getLsbD_append, BitVec.getLsbD_extractLsb']
  interval_cases i <;> simp

@[simp] theorem rsvField_commandWord : rsvField (commandWord opc ridx imm8) = 0 := by
  apply BitVec.eq_of_getLsbD_eq
  intro i hi
  simp only [commandWord, rsvField, BitVec.getLsbD_append, BitVec.getLsbD_extractLsb']
  interval_cases i <;> simp

@[simp] theorem imm8Field_commandWord : imm8Field (commandWord opc ridx imm8) = imm8 := by
  apply BitVec.eq_of_getLsbD_eq
  intro i hi
  simp only [commandWord, imm8Field, BitVec.getLsbD_append, BitVec.getLsbD_extractLsb']
  interval_cases i <;> simp

end fields

/-- A word whose reserved field is 0 is the command word of its other fields. -/
theorem commandWord_fields {w : Word} (h : rsvField w = 0) :
    commandWord (opcField w) (ridxField w) (imm8Field w) = w := by
  rw [commandWord, ← h]
  exact (word_eq_fields w).symm

theorem decodePlain_ok (i : Instr) (w : Word) (j : Instr) :
    decodePlain i w = .ok j ↔ i = j ∧ rsvField w = 0 ∧ ridxField w = 0 ∧ imm8Field w = 0 := by
  unfold decodePlain
  repeat' split
  all_goals simp_all

theorem decodeIndexed_ok (mk : BitVec 4 → Instr) (w : Word) (j : Instr) :
    decodeIndexed mk w = .ok j ↔
      mk (ridxField w) = j ∧ rsvField w = 0 ∧ imm8Field w = 0 ∧ ridxLegal (ridxField w) = true := by
  unfold decodeIndexed
  repeat' split
  all_goals simp_all

theorem decodeByte_ok (mk : Byte → Instr) (w : Word) (j : Instr) :
    decodeByte mk w = .ok j ↔ mk (imm8Field w) = j ∧ rsvField w = 0 ∧ ridxField w = 0 := by
  unfold decodeByte
  repeat' split
  all_goals simp_all

end Sys2Proof
end

