-- ==== Sys2Proof/Laws/State.lean ====
section
/-! SUPPORT. What each named update of the state leaves in each field, so that no proof unfolds one. -/

namespace Sys2Proof.Machine

@[simp] theorem clearError_cfg (s : State) : s.clearError.cfg = s.cfg := rfl
@[simp] theorem clearError_rk (s : State) : s.clearError.rk = s.rk := rfl
@[simp] theorem clearError_keyv (s : State) : s.clearError.keyv = s.keyv := rfl
@[simp] theorem clearError_mode (s : State) : s.clearError.mode = s.mode := rfl
@[simp] theorem clearError_state (s : State) : s.clearError.state = s.state := rfl
@[simp] theorem clearError_iv (s : State) : s.clearError.iv = s.iv := rfl
@[simp] theorem clearError_ctr (s : State) : s.clearError.ctr = s.ctr := rfl
@[simp] theorem clearError_result (s : State) : s.clearError.result = s.result := rfl
@[simp] theorem clearError_src (s : State) : s.clearError.src = s.src := rfl
@[simp] theorem clearError_dst (s : State) : s.clearError.dst = s.dst := rfl
@[simp] theorem clearError_len (s : State) : s.clearError.len = s.len := rfl
@[simp] theorem clearError_cmdr (s : State) : s.clearError.cmdr = s.cmdr := rfl
@[simp] theorem clearError_dmem (s : State) : s.clearError.dmem = s.dmem := rfl
@[simp] theorem clearError_err (s : State) : s.clearError.err = false := rfl
@[simp] theorem clearError_errcode (s : State) : s.clearError.errcode = 0 := rfl
@[simp] theorem clearError_errlen (s : State) : s.clearError.errlen = 0 := rfl
@[simp] theorem clearError_ovr (s : State) : s.clearError.ovr = s.ovr := rfl
@[simp] theorem clearError_running (s : State) : s.clearError.running = s.running := rfl
@[simp] theorem clearError_draws (s : State) : s.clearError.draws = s.draws := rfl
@[simp] theorem clearError_pending (s : State) : s.clearError.pending = s.pending := rfl
@[simp] theorem clearError_reads (s : State) : s.clearError.reads = s.reads := rfl

@[simp] theorem recordError_cfg (e : CmdError) (s : State) : (s.recordError e).cfg = s.cfg := rfl
@[simp] theorem recordError_rk (e : CmdError) (s : State) : (s.recordError e).rk = s.rk := rfl
@[simp] theorem recordError_keyv (e : CmdError) (s : State) : (s.recordError e).keyv = s.keyv := rfl
@[simp] theorem recordError_mode (e : CmdError) (s : State) : (s.recordError e).mode = s.mode := rfl
@[simp] theorem recordError_state (e : CmdError) (s : State) : (s.recordError e).state = s.state := rfl
@[simp] theorem recordError_iv (e : CmdError) (s : State) : (s.recordError e).iv = s.iv := rfl
@[simp] theorem recordError_ctr (e : CmdError) (s : State) : (s.recordError e).ctr = s.ctr := rfl
@[simp] theorem recordError_result (e : CmdError) (s : State) : (s.recordError e).result = s.result := rfl
@[simp] theorem recordError_src (e : CmdError) (s : State) : (s.recordError e).src = s.src := rfl
@[simp] theorem recordError_dst (e : CmdError) (s : State) : (s.recordError e).dst = s.dst := rfl
@[simp] theorem recordError_len (e : CmdError) (s : State) : (s.recordError e).len = s.len := rfl
@[simp] theorem recordError_cmdr (e : CmdError) (s : State) : (s.recordError e).cmdr = s.cmdr := rfl
@[simp] theorem recordError_dmem (e : CmdError) (s : State) : (s.recordError e).dmem = s.dmem := rfl
@[simp] theorem recordError_err (e : CmdError) (s : State) : (s.recordError e).err = true := rfl
@[simp] theorem recordError_errcode (e : CmdError) (s : State) : (s.recordError e).errcode = e.code := rfl
@[simp] theorem recordError_errlen (e : CmdError) (s : State) : (s.recordError e).errlen = e.length := rfl
@[simp] theorem recordError_ovr (e : CmdError) (s : State) : (s.recordError e).ovr = s.ovr := rfl
@[simp] theorem recordError_running (e : CmdError) (s : State) : (s.recordError e).running = s.running := rfl
@[simp] theorem recordError_draws (e : CmdError) (s : State) : (s.recordError e).draws = s.draws := rfl
@[simp] theorem recordError_pending (e : CmdError) (s : State) : (s.recordError e).pending = s.pending := rfl
@[simp] theorem recordError_reads (e : CmdError) (s : State) : (s.recordError e).reads = s.reads := rfl

@[simp] theorem complete_cfg (s : State) : s.complete.cfg = s.cfg := rfl
@[simp] theorem complete_rk (s : State) : s.complete.rk = s.rk := rfl
@[simp] theorem complete_keyv (s : State) : s.complete.keyv = s.keyv := rfl
@[simp] theorem complete_mode (s : State) : s.complete.mode = s.mode := rfl
@[simp] theorem complete_state (s : State) : s.complete.state = s.state := rfl
@[simp] theorem complete_iv (s : State) : s.complete.iv = s.iv := rfl
@[simp] theorem complete_ctr (s : State) : s.complete.ctr = s.ctr := rfl
@[simp] theorem complete_result (s : State) : s.complete.result = s.result := rfl
@[simp] theorem complete_src (s : State) : s.complete.src = s.src := rfl
@[simp] theorem complete_dst (s : State) : s.complete.dst = s.dst := rfl
@[simp] theorem complete_len (s : State) : s.complete.len = s.len := rfl
@[simp] theorem complete_cmdr (s : State) : s.complete.cmdr = s.cmdr := rfl
@[simp] theorem complete_dmem (s : State) : s.complete.dmem = s.dmem := rfl
@[simp] theorem complete_err (s : State) : s.complete.err = s.err := rfl
@[simp] theorem complete_errcode (s : State) : s.complete.errcode = s.errcode := rfl
@[simp] theorem complete_errlen (s : State) : s.complete.errlen = s.errlen := rfl
@[simp] theorem complete_ovr (s : State) : s.complete.ovr = s.ovr := rfl
@[simp] theorem complete_running (s : State) : s.complete.running = none := rfl
@[simp] theorem complete_draws (s : State) : s.complete.draws = s.draws := rfl
@[simp] theorem complete_pending (s : State) : s.complete.pending = s.pending := rfl
@[simp] theorem complete_reads (s : State) : s.complete.reads = s.reads := rfl

@[simp] theorem failed_cfg (e : CmdError) (s : State) : (s.failed e).cfg = s.cfg := rfl
@[simp] theorem failed_rk (e : CmdError) (s : State) : (s.failed e).rk = s.rk := rfl
@[simp] theorem failed_keyv (e : CmdError) (s : State) : (s.failed e).keyv = s.keyv := rfl
@[simp] theorem failed_mode (e : CmdError) (s : State) : (s.failed e).mode = s.mode := rfl
@[simp] theorem failed_state (e : CmdError) (s : State) : (s.failed e).state = s.state := rfl
@[simp] theorem failed_iv (e : CmdError) (s : State) : (s.failed e).iv = s.iv := rfl
@[simp] theorem failed_ctr (e : CmdError) (s : State) : (s.failed e).ctr = s.ctr := rfl
@[simp] theorem failed_result (e : CmdError) (s : State) : (s.failed e).result = s.result := rfl
@[simp] theorem failed_src (e : CmdError) (s : State) : (s.failed e).src = s.src := rfl
@[simp] theorem failed_dst (e : CmdError) (s : State) : (s.failed e).dst = s.dst := rfl
@[simp] theorem failed_len (e : CmdError) (s : State) : (s.failed e).len = s.len := rfl
@[simp] theorem failed_cmdr (e : CmdError) (s : State) : (s.failed e).cmdr = s.cmdr := rfl
@[simp] theorem failed_dmem (e : CmdError) (s : State) : (s.failed e).dmem = s.dmem := rfl
@[simp] theorem failed_err (e : CmdError) (s : State) : (s.failed e).err = true := rfl
@[simp] theorem failed_errcode (e : CmdError) (s : State) : (s.failed e).errcode = e.code := rfl
@[simp] theorem failed_errlen (e : CmdError) (s : State) : (s.failed e).errlen = e.length := rfl
@[simp] theorem failed_ovr (e : CmdError) (s : State) : (s.failed e).ovr = s.ovr := rfl
@[simp] theorem failed_running (e : CmdError) (s : State) : (s.failed e).running = none := rfl
@[simp] theorem failed_draws (e : CmdError) (s : State) : (s.failed e).draws = s.draws := rfl
@[simp] theorem failed_pending (e : CmdError) (s : State) : (s.failed e).pending = s.pending := rfl
@[simp] theorem failed_reads (e : CmdError) (s : State) : (s.failed e).reads = s.reads := rfl

@[simp] theorem accept_cfg (s : State) (w : Word) : (accept s w).cfg = s.cfg := rfl
@[simp] theorem accept_rk (s : State) (w : Word) : (accept s w).rk = s.rk := rfl
@[simp] theorem accept_keyv (s : State) (w : Word) : (accept s w).keyv = s.keyv := rfl
@[simp] theorem accept_mode (s : State) (w : Word) : (accept s w).mode = s.mode := rfl
@[simp] theorem accept_state (s : State) (w : Word) : (accept s w).state = s.state := rfl
@[simp] theorem accept_iv (s : State) (w : Word) : (accept s w).iv = s.iv := rfl
@[simp] theorem accept_ctr (s : State) (w : Word) : (accept s w).ctr = s.ctr := rfl
@[simp] theorem accept_result (s : State) (w : Word) : (accept s w).result = s.result := rfl
@[simp] theorem accept_src (s : State) (w : Word) : (accept s w).src = s.src := rfl
@[simp] theorem accept_dst (s : State) (w : Word) : (accept s w).dst = s.dst := rfl
@[simp] theorem accept_len (s : State) (w : Word) : (accept s w).len = s.len := rfl
@[simp] theorem accept_cmdr (s : State) (w : Word) : (accept s w).cmdr = w := rfl
@[simp] theorem accept_dmem (s : State) (w : Word) : (accept s w).dmem = s.dmem := rfl
@[simp] theorem accept_err (s : State) (w : Word) : (accept s w).err = false := rfl
@[simp] theorem accept_errcode (s : State) (w : Word) : (accept s w).errcode = 0 := rfl
@[simp] theorem accept_errlen (s : State) (w : Word) : (accept s w).errlen = 0 := rfl
@[simp] theorem accept_ovr (s : State) (w : Word) : (accept s w).ovr = s.ovr := rfl
@[simp] theorem accept_running (s : State) (w : Word) : (accept s w).running = some ⟨w, s.src, s.dst, s.len, []⟩ := rfl
@[simp] theorem accept_draws (s : State) (w : Word) : (accept s w).draws = s.draws := rfl
@[simp] theorem accept_pending (s : State) (w : Word) : (accept s w).pending = s.pending := rfl
@[simp] theorem accept_reads (s : State) (w : Word) : (accept s w).reads = s.reads := rfl

@[simp] theorem resetEvent_cfg (s : State) : (resetEvent s).cfg = s.cfg := rfl
@[simp] theorem resetEvent_rk (s : State) : (resetEvent s).rk = Schedule.zero := rfl
@[simp] theorem resetEvent_keyv (s : State) : (resetEvent s).keyv = false := rfl
@[simp] theorem resetEvent_mode (s : State) : (resetEvent s).mode = .none := rfl
@[simp] theorem resetEvent_state (s : State) : (resetEvent s).state = Block.zero := rfl
@[simp] theorem resetEvent_iv (s : State) : (resetEvent s).iv = Block.zero := rfl
@[simp] theorem resetEvent_ctr (s : State) : (resetEvent s).ctr = 0 := rfl
@[simp] theorem resetEvent_result (s : State) : (resetEvent s).result = 0 := rfl
@[simp] theorem resetEvent_src (s : State) : (resetEvent s).src = 0 := rfl
@[simp] theorem resetEvent_dst (s : State) : (resetEvent s).dst = 0 := rfl
@[simp] theorem resetEvent_len (s : State) : (resetEvent s).len = 0 := rfl
@[simp] theorem resetEvent_cmdr (s : State) : (resetEvent s).cmdr = 0 := rfl
@[simp] theorem resetEvent_dmem (s : State) : (resetEvent s).dmem = ⟨s.draws, []⟩ := rfl
@[simp] theorem resetEvent_err (s : State) : (resetEvent s).err = false := rfl
@[simp] theorem resetEvent_errcode (s : State) : (resetEvent s).errcode = 0 := rfl
@[simp] theorem resetEvent_errlen (s : State) : (resetEvent s).errlen = 0 := rfl
@[simp] theorem resetEvent_ovr (s : State) : (resetEvent s).ovr = false := rfl
@[simp] theorem resetEvent_running (s : State) : (resetEvent s).running = none := rfl
@[simp] theorem resetEvent_draws (s : State) : (resetEvent s).draws = s.draws + 1 := rfl
@[simp] theorem resetEvent_pending (s : State) : (resetEvent s).pending = s.pending := rfl
@[simp] theorem resetEvent_reads (s : State) : (resetEvent s).reads = s.reads := rfl

@[simp] theorem hostRead_cfg (s : State) (off : Word) : (hostRead s off).cfg = s.cfg := rfl
@[simp] theorem hostRead_rk (s : State) (off : Word) : (hostRead s off).rk = s.rk := rfl
@[simp] theorem hostRead_keyv (s : State) (off : Word) : (hostRead s off).keyv = s.keyv := rfl
@[simp] theorem hostRead_mode (s : State) (off : Word) : (hostRead s off).mode = s.mode := rfl
@[simp] theorem hostRead_state (s : State) (off : Word) : (hostRead s off).state = s.state := rfl
@[simp] theorem hostRead_iv (s : State) (off : Word) : (hostRead s off).iv = s.iv := rfl
@[simp] theorem hostRead_ctr (s : State) (off : Word) : (hostRead s off).ctr = s.ctr := rfl
@[simp] theorem hostRead_result (s : State) (off : Word) : (hostRead s off).result = s.result := rfl
@[simp] theorem hostRead_src (s : State) (off : Word) : (hostRead s off).src = s.src := rfl
@[simp] theorem hostRead_dst (s : State) (off : Word) : (hostRead s off).dst = s.dst := rfl
@[simp] theorem hostRead_len (s : State) (off : Word) : (hostRead s off).len = s.len := rfl
@[simp] theorem hostRead_cmdr (s : State) (off : Word) : (hostRead s off).cmdr = s.cmdr := rfl
@[simp] theorem hostRead_dmem (s : State) (off : Word) : (hostRead s off).dmem = s.dmem := rfl
@[simp] theorem hostRead_err (s : State) (off : Word) : (hostRead s off).err = s.err := rfl
@[simp] theorem hostRead_errcode (s : State) (off : Word) : (hostRead s off).errcode = s.errcode := rfl
@[simp] theorem hostRead_errlen (s : State) (off : Word) : (hostRead s off).errlen = s.errlen := rfl
@[simp] theorem hostRead_ovr (s : State) (off : Word) : (hostRead s off).ovr = s.ovr := rfl
@[simp] theorem hostRead_running (s : State) (off : Word) : (hostRead s off).running = s.running := rfl
@[simp] theorem hostRead_draws (s : State) (off : Word) : (hostRead s off).draws = s.draws + 1 := rfl
@[simp] theorem hostRead_pending (s : State) (off : Word) : (hostRead s off).pending = s.pending := rfl
@[simp] theorem hostRead_reads (s : State) (off : Word) : (hostRead s off).reads = readValue s off :: s.reads := rfl

@[simp] theorem busy_complete (s : State) : s.complete.busy = false := rfl
@[simp] theorem busy_failed (e : CmdError) (s : State) : (s.failed e).busy = false := rfl
@[simp] theorem busy_accept (s : State) (w : Word) : (accept s w).busy = true := rfl
@[simp] theorem busy_resetEvent (s : State) : (resetEvent s).busy = false := rfl

/-- BUSY = 1 exactly while a latch is held. -/
theorem busy_eq_true_iff (s : State) : s.busy = true ↔ ∃ l, s.running = some l := by
  simp [State.busy, Option.isSome_iff_exists]

/-- BUSY = 0 exactly while no latch is held. -/
theorem busy_eq_false_iff (s : State) : s.busy = false ↔ s.running = none := by
  simp [State.busy]

end Sys2Proof.Machine
end

