-- ==== Sys2Proof/Laws/Ops.lean ====
section
/-! SUPPORT. What each shared operation can do, said once: the execution step's enabling, the memory primitives behind a
range check, the common ends of the commands, and the data-command frame. -/

namespace Sys2Proof.Machine

/-! The execution step. -/

theorem whileBusy_some {s : State} {l : Latch} (h : s.running = some l) (body : Latch → Result) :
    whileBusy s body = body l := by
  simp [whileBusy, h]

theorem whileBusy_none {s : State} (h : s.running = none) (body : Latch → Result) :
    whileBusy s body = .fault .engineIdle := by
  simp [whileBusy, h]

/-- A command that answers a next state ran with a latch. -/
theorem whileBusy_next {s t : State} {body : Latch → Result} (h : whileBusy s body = .next t) :
    ∃ l, s.running = some l ∧ body l = .next t := by
  cases hr : s.running with
  | none => simp [whileBusy, hr] at h
  | some l => exact ⟨l, rfl, by simpa [whileBusy, hr] using h⟩

/-! Ranges. -/

theorem rangeFails_eq_false_iff (s : State) (a n : Nat) :
    rangeFails s a n = false ↔ n = 0 ∨ a + n ≤ s.cfg.dmemSize := by
  simp [rangeFails]
  omega

theorem inDmem_of_rangeFails {s : State} {a n : Nat} (h : rangeFails s a n = false) : inDmem s.cfg a n = true := by
  simpa [inDmem] using (rangeFails_eq_false_iff s a n).1 h

/-- MemRead behind a passed range check (R17). -/
theorem memRead_of_check {s : State} {a n : Nat} (h : rangeFails s a n = false) (rest : List Byte → Result) :
    memRead s a n rest = rest (s.dmem.readBytes a n) := by
  simp [memRead, inDmem_of_rangeFails h]

/-- MemWrite behind a passed range check (R17). -/
theorem memWrite_of_check {s : State} {a n : Nat} {v : List Byte} (h : rangeFails s a n = false)
    (hv : v.length = n) (rest : State → Result) :
    memWrite s a v rest = rest { s with dmem := s.dmem.writeBytes a v } := by
  subst hv
  simp [memWrite, inDmem_of_rangeFails h]

/-! The common ends of the commands. -/

theorem raise_eq (e : CmdError) (s : State) : raise e s = .next (s.failed e) := rfl

theorem finish_eq (s : State) : finish s = .next s.complete := rfl

theorem transformState_eq {s : State} {l : Latch} (h : s.running = some l) (f : Block → Block) :
    transformState s f = .next { s with state := f s.state, running := none } := by
  rw [transformState, whileBusy_some h]
  rfl

/-- Storing a block at DST: RANGE, or the 16 bytes and completion. -/
theorem storeBlock_eq (s : State) (l : Latch) (b : Block) :
    storeBlock s l b =
      if rangeFails s l.dst.toNat 16 then .next (s.failed .range)
      else .next { s with dmem := s.dmem.writeBytes l.dst.toNat (blockBytes b), running := none } := by
  unfold storeBlock
  split
  · rfl
  · rename_i h
    rw [memWrite_of_check (n := 16) (by simpa using h) (blockBytes_length b)]
    rfl

/-- Loading an IV at SRC: INVALID_IV_LENGTH, RANGE, or the rest with the block. -/
theorem loadIv_eq (s : State) (l : Latch) (rest : Block → Result) :
    loadIv s l rest =
      if l.len.toNat ≠ 16 then .next (s.failed (.invalidIvLength l.len))
      else if rangeFails s l.src.toNat 16 then .next (s.failed .range)
      else rest (blockOfBytes (s.dmem.readBytes l.src.toNat 16)) := by
  unfold loadIv
  split
  · rfl
  · split
    · rfl
    · rename_i h
      rw [memRead_of_check (by simpa using h)]

/-- The data-command frame (R250) of a mode function that keeps the length of every input the frame gives it. -/
theorem dataCommand_eq {s : State} {l : Latch} (hr : s.running = some l) (m : Mode) (aligned : Bool)
    (f : List Byte → List Byte × Counter)
    (hf : ∀ inp, (aligned = true → inp.length % 16 = 0) → (f inp).1.length = inp.length) :
    dataCommand m aligned f s =
      if s.mode ≠ m then .next (s.failed .wrongMode)
      else if aligned && l.len.toNat % 16 != 0 then .next (s.failed (.invalidInputLength l.len))
      else if rangeFails s l.src.toNat l.len.toNat then .next (s.failed .range)
      else if rangeFails s l.dst.toNat l.len.toNat then .next (s.failed .range)
      else if overlapFails l.src.toNat l.dst.toNat l.len.toNat then .next (s.failed .overlap)
      else .next { s with
        dmem := s.dmem.writeBytes l.dst.toNat (f (s.dmem.readBytes l.src.toNat l.len.toNat)).1
        ctr := (f (s.dmem.readBytes l.src.toNat l.len.toNat)).2
        running := none } := by
  rw [dataCommand, whileBusy_some hr]
  split
  · rfl
  · split
    · rfl
    · rename_i ha
      split
      · rfl
      · rename_i hs
        split
        · rfl
        · rename_i hd
          split
          · rfl
          · rw [memRead_of_check (by simpa using hs), memWrite_of_check (n := l.len.toNat) (by simpa using hd)]
            · rfl
            · rw [hf _ (by intro e; simpa [e] using ha), Memory.readBytes_length]

/-! The lengths of the mode functions (R251). -/

theorem ecbBlocks_length (f : Block → Block) (n : Nat) (inp : List Byte) : (ecbBlocks f n inp).length = 16 * n := by
  induction n generalizing inp with
  | zero => rfl
  | succ n ih => simp [ecbBlocks, ih]; omega

theorem cbcEncBlocks_length (rk : Schedule) (n : Nat) (prev : Block) (inp : List Byte) :
    (cbcEncBlocks rk n prev inp).length = 16 * n := by
  induction n generalizing prev inp with
  | zero => rfl
  | succ n ih => simp [cbcEncBlocks, ih]; omega

theorem cbcDecBlocks_length (rk : Schedule) (n : Nat) (prev : Block) (inp : List Byte) :
    (cbcDecBlocks rk n prev inp).length = 16 * n := by
  induction n generalizing prev inp with
  | zero => rfl
  | succ n ih => simp [cbcDecBlocks, ih]; omega

theorem ctrChunks_length (rk : Schedule) (n : Nat) (c : Counter) (inp : List Byte) (h : inp.length ≤ 16 * n) :
    (ctrChunks rk n c inp).1.length = inp.length := by
  induction n generalizing c inp with
  | zero => simp [ctrChunks]; omega
  | succ n ih =>
    have := ih (c + 1) (inp.drop 16) (by simp; omega)
    simp only [ctrChunks, List.length_append, this, xorBytes, List.length_zipWith, List.length_take,
      blockBytes_length, List.length_drop]
    omega

/-! The engine's step. -/

/-- With no host write in the command's footprint, nothing is added to what the command leaves. -/
theorem settle_undisturbed {l : Latch} (h : l.disturbed = []) (i : Option Instr) (t : State) : settle l i t = t := by
  simp [settle, h]

/-- An address of a command's destination range that is an offset of DMEM. -/
theorem mem_destAddresses (c : Config) (i : Instr) (l : Latch) (x : Nat) :
    x ∈ destAddresses c i l ↔
      x < c.dmemSize ∧ l.dst.toNat ≤ x ∧ x < l.dst.toNat + destLength i l.len.toNat := by
  simp only [destAddresses, List.mem_map, List.mem_range]
  constructor
  · rintro ⟨k, hk, rfl⟩
    omega
  · intro h
    exact ⟨x - l.dst.toNat, by omega, by omega⟩

/-- What DMEM holds after a command whose footprint the host wrote (R83). -/
theorem settle_read {l : Latch} (h : l.disturbed ≠ []) (i : Instr) (t : State) (x : Nat) :
    (settle l (some i) t).dmem.read x =
      if x ∈ l.disturbed ∨
        (x < t.cfg.dmemSize ∧ l.dst.toNat ≤ x ∧ x < l.dst.toNat + destLength i l.len.toNat) then
        Config.freeByte t.draws x
      else t.dmem.read x := by
  simp [settle, h, unsettled, Memory.read_scramble, mem_destAddresses]

/-- Nothing but DMEM and the draw counter changes when the bytes are drawn anew. -/
theorem settle_frame (l : Latch) (i : Option Instr) (t : State) :
    { settle l i t with dmem := t.dmem, draws := t.draws } = t := by
  unfold settle
  split <;> rfl

theorem engineStep_idle {s : State} (h : s.running = none) : engineStep s = .next s := by
  simp [engineStep, h]

theorem engineStep_command {s : State} {l : Latch} {i : Instr} (h : s.running = some l) (hd : decode l.cmd = .ok i) :
    engineStep s = mapNext (settle l (some i)) (exec i s) := by
  simp [engineStep, h, hd]

theorem engineStep_illegal {s : State} {l : Latch} {e : IllegalWord} (h : s.running = some l)
    (hd : decode l.cmd = .error e) : engineStep s = .next (settle l none (s.failed .illegalCommand)) := by
  simp [engineStep, h, hd]

@[simp] theorem mapNext_next (f : State → State) (t : State) : mapNext f (.next t) = .next (f t) := rfl

/-! The host's accesses. -/

/-- A byte of a host write changes DMEM and the latch only. -/
theorem hostWriteByte_frame (s : State) (a : Nat) (b : Byte) :
    { hostWriteByte s a b with dmem := s.dmem, running := s.running } = s := by
  unfold hostWriteByte
  split <;> rfl

/-- A host write outside every footprint is a plain store. -/
theorem hostWriteByte_free {s : State} {a : Nat} (b : Byte) (h : s.guarded a = false) :
    hostWriteByte s a b = { s with dmem := s.dmem.write a b } := by
  simp [hostWriteByte, h]

/-- One byte of a host write while a command runs (R83): a byte outside the footprint is stored; a footprint byte is
remembered and stays in DMEM as the command is to see it. -/
theorem hostWriteByte_running {s : State} {l : Latch} (hl : s.running = some l) (a : Nat) (b : Byte) :
    ∃ m d, hostWriteByte s a b = { s with dmem := m, running := some { l with disturbed := d } } ∧
      (m.read a = if inFootprint l a = true then s.dmem.read a else b) ∧ (∀ x, x ≠ a → m.read x = s.dmem.read x) ∧
      ∀ x, x ∈ d ↔ x ∈ l.disturbed ∨ (x = a ∧ inFootprint l x = true) := by
  unfold hostWriteByte
  rw [show s.guarded a = inFootprint l a by simp [State.guarded, hl]]
  split
  · rename_i h
    refine ⟨s.dmem, (l.disturb a).disturbed, ?_, rfl, fun _ _ => rfl, fun x => ?_⟩
    · rw [hl]
      unfold Latch.disturb
      split <;> simp_all
    · unfold Latch.disturb
      split
      · rename_i hc
        rw [List.contains_iff_mem] at hc
        exact ⟨.inl, by rintro (h | ⟨rfl, -⟩) <;> assumption⟩
      · simp only [List.mem_cons]
        exact ⟨by rintro (rfl | h') <;> simp_all, by rintro (h' | ⟨rfl, -⟩) <;> simp_all⟩
  · rename_i h
    refine ⟨s.dmem.write a b, l.disturbed, by rw [← hl], by simp, fun x hx => Memory.read_write_ne _ _ hx, fun x => ?_⟩
    exact ⟨.inl, by rintro (h' | ⟨rfl, h'⟩) <;> [exact h'; exact absurd h' h]⟩

end Sys2Proof.Machine
end

