-- ==== Sys2Proof/Laws/Exec.lean ====
section
/-! SUPPORT. What `exec` can do, said once for all commands: the first failing check's error, or the command's own effect
and completion. Proofs about all commands start from `exec_eq` and unfold no meaning. -/

namespace Sys2Proof.Machine

/-- A data command's own effect: its output at DST, and the counter after it. -/
def dataEffect (s : State) (l : Latch) (out : List Byte × Counter) : State :=
  { s with dmem := s.dmem.writeBytes l.dst.toNat out.1, ctr := out.2 }

/-- A storing command's own effect: a block at DST. -/
def storeEffect (s : State) (l : Latch) (b : Block) : State :=
  { s with dmem := s.dmem.writeBytes l.dst.toNat (blockBytes b) }

/-- Each command's own effect, for the operands of latch l, when none of its checks fails. -/
def effect (i : Instr) (s : State) (l : Latch) : State :=
  let source := s.dmem.readBytes l.src.toNat
  match i with
  | .nop => s
  | .keyld => { s with rk := expandKey (blockOfBytes (source 16)), keyv := true, mode := .none }
  | .rdrk r => storeEffect s l (roundKeyAt s.rk r.toNat)
  | .sbox a => { s with result := (sboxOf a).setWidth 32 }
  | .isbox a => { s with result := (invSboxOf a).setWidth 32 }
  | .ldst => { s with state := blockOfBytes (source 16) }
  | .stst => storeEffect s l s.state
  | .subb => { s with state := subBytes s.state }
  | .isubb => { s with state := invSubBytes s.state }
  | .shr => { s with state := shiftRows s.state }
  | .ishr => { s with state := invShiftRows s.state }
  | .mixc => { s with state := mixColumns s.state }
  | .imixc => { s with state := invMixColumns s.state }
  | .ark r => { s with state := addRoundKey s.state (roundKeyAt s.rk r.toNat) }
  | .encb => { s with state := cipher s.rk s.state }
  | .decb => { s with state := invCipher s.rk s.state }
  | .cfgecb => { s with mode := .ecb }
  | .cfgcbc => { s with iv := blockOfBytes (source 16), mode := .cbc }
  | .cfgctr => { s with ctr := BitVec.ofNat 128 (bigEndian (source l.len.toNat)), mode := .ctr }
  | .setiv => { s with iv := blockOfBytes (source 16) }
  | .getiv => storeEffect s l s.iv
  | .rdctr => storeEffect s l (toBE16 s.ctr)
  | .ecbenc => dataEffect s l (ecbEncrypt s.rk (source l.len.toNat), s.ctr)
  | .ecbdec => dataEffect s l (ecbDecrypt s.rk (source l.len.toNat), s.ctr)
  | .cbcenc => dataEffect s l (cbcEncrypt s.rk s.iv (source l.len.toNat), s.ctr)
  | .cbcdec => dataEffect s l (cbcDecrypt s.rk s.iv (source l.len.toNat), s.ctr)
  | .ctrenc => dataEffect s l (ctrCrypt s.rk s.ctr (source l.len.toNat))
  | .ctrdec => dataEffect s l (ctrCrypt s.rk s.ctr (source l.len.toNat))

/-- The first check that fails, if any. -/
def firstFailure (i : Instr) (s : State) (l : Latch) : Option CmdError :=
  ((checks i s l).find? (·.1)).map (·.2)

/-- What a command answers while it is running. -/
def answer (i : Instr) (s : State) (l : Latch) : Result :=
  match firstFailure i s l with
  | some e => .next (s.failed e)
  | none => .next (effect i s l).complete

theorem ecbEncrypt_length (rk : Schedule) {inp : List Byte} (h : inp.length % 16 = 0) :
    (ecbEncrypt rk inp).length = inp.length := by
  rw [ecbEncrypt, ecbBlocks_length]; omega

theorem ecbDecrypt_length (rk : Schedule) {inp : List Byte} (h : inp.length % 16 = 0) :
    (ecbDecrypt rk inp).length = inp.length := by
  rw [ecbDecrypt, ecbBlocks_length]; omega

theorem cbcEncrypt_length (rk : Schedule) (iv : Block) {inp : List Byte} (h : inp.length % 16 = 0) :
    (cbcEncrypt rk iv inp).length = inp.length := by
  rw [cbcEncrypt, cbcEncBlocks_length]; omega

theorem cbcDecrypt_length (rk : Schedule) (iv : Block) {inp : List Byte} (h : inp.length % 16 = 0) :
    (cbcDecrypt rk iv inp).length = inp.length := by
  rw [cbcDecrypt, cbcDecBlocks_length]; omega

theorem ctrCrypt_length (rk : Schedule) (c : Counter) (inp : List Byte) :
    (ctrCrypt rk c inp).1.length = inp.length :=
  ctrChunks_length rk _ c inp (by omega)

/-- A data command answers what its checks and `dataEffect` say. -/
theorem dataCommand_answer {s : State} {l : Latch} {i : Instr} (hr : s.running = some l) (m : Mode) (aligned : Bool)
    (f : List Byte → List Byte × Counter)
    (hf : ∀ inp, (aligned = true → inp.length % 16 = 0) → (f inp).1.length = inp.length)
    (hc : checks i s l = (decide (s.mode ≠ m), .wrongMode) ::
      (if aligned then [(decide (l.len.toNat % 16 ≠ 0), .invalidInputLength l.len)] else []) ++
      [(rangeFails s l.src.toNat l.len.toNat, .range), (rangeFails s l.dst.toNat l.len.toNat, .range),
        (overlapFails l.src.toNat l.dst.toNat l.len.toNat, .overlap)])
    (he : effect i s l = dataEffect s l (f (s.dmem.readBytes l.src.toNat l.len.toNat))) :
    dataCommand m aligned f s = answer i s l := by
  rw [dataCommand_eq hr m aligned f hf, answer, firstFailure, hc, he]
  cases aligned <;> repeat' split
  all_goals simp_all [dataEffect, State.complete]

/-- While a command runs, `exec` answers the first failing check's error or the command's effect. -/
theorem exec_eq {s : State} {l : Latch} (hr : s.running = some l) (i : Instr) : exec i s = answer i s l := by
  cases i
  case ecbenc => exact dataCommand_answer hr _ _ _ (fun _ h => ecbEncrypt_length _ (h rfl)) rfl rfl
  case ecbdec => exact dataCommand_answer hr _ _ _ (fun _ h => ecbDecrypt_length _ (h rfl)) rfl rfl
  case cbcenc => exact dataCommand_answer hr _ _ _ (fun _ h => cbcEncrypt_length _ _ (h rfl)) rfl rfl
  case cbcdec => exact dataCommand_answer hr _ _ _ (fun _ h => cbcDecrypt_length _ _ (h rfl)) rfl rfl
  case ctrenc => exact dataCommand_answer hr _ _ _ (fun _ _ => ctrCrypt_length _ _ _) rfl rfl
  case ctrdec => exact dataCommand_answer hr _ _ _ (fun _ _ => ctrCrypt_length _ _ _) rfl rfl
  all_goals
    simp only [exec, execNop, execKeyld, execRdrk, execSbox, execIsbox, execLdst, execStst, execSubb, execIsubb,
      execShr, execIshr, execMixc, execImixc, execArk, execEncb, execDecb, execCfgecb, execCfgcbc, execCfgctr,
      execSetiv, execGetiv, execRdctr, whileBusy_some hr, transformState_eq hr, storeBlock_eq, loadIv_eq, raise_eq,
      finish_eq, answer, firstFailure, checks, effect, storeEffect]
    repeat' split
  all_goals simp_all [memRead_of_check, State.complete]

/-- An idle engine has no execution step (R81). -/
theorem exec_idle {s : State} (hr : s.running = none) (i : Instr) : exec i s = .fault .engineIdle := by
  cases i <;> exact whileBusy_none hr _

/-! What no command's effect changes. -/

@[simp] theorem effect_cfg (i : Instr) (s : State) (l : Latch) : (effect i s l).cfg = s.cfg := by
  cases i <;> simp only [effect, storeEffect, dataEffect]
@[simp] theorem effect_src (i : Instr) (s : State) (l : Latch) : (effect i s l).src = s.src := by
  cases i <;> simp only [effect, storeEffect, dataEffect]
@[simp] theorem effect_dst (i : Instr) (s : State) (l : Latch) : (effect i s l).dst = s.dst := by
  cases i <;> simp only [effect, storeEffect, dataEffect]
@[simp] theorem effect_len (i : Instr) (s : State) (l : Latch) : (effect i s l).len = s.len := by
  cases i <;> simp only [effect, storeEffect, dataEffect]
@[simp] theorem effect_cmdr (i : Instr) (s : State) (l : Latch) : (effect i s l).cmdr = s.cmdr := by
  cases i <;> simp only [effect, storeEffect, dataEffect]
@[simp] theorem effect_err (i : Instr) (s : State) (l : Latch) : (effect i s l).err = s.err := by
  cases i <;> simp only [effect, storeEffect, dataEffect]
@[simp] theorem effect_errcode (i : Instr) (s : State) (l : Latch) : (effect i s l).errcode = s.errcode := by
  cases i <;> simp only [effect, storeEffect, dataEffect]
@[simp] theorem effect_errlen (i : Instr) (s : State) (l : Latch) : (effect i s l).errlen = s.errlen := by
  cases i <;> simp only [effect, storeEffect, dataEffect]
@[simp] theorem effect_ovr (i : Instr) (s : State) (l : Latch) : (effect i s l).ovr = s.ovr := by
  cases i <;> simp only [effect, storeEffect, dataEffect]
@[simp] theorem effect_running (i : Instr) (s : State) (l : Latch) : (effect i s l).running = s.running := by
  cases i <;> simp only [effect, storeEffect, dataEffect]
@[simp] theorem effect_draws (i : Instr) (s : State) (l : Latch) : (effect i s l).draws = s.draws := by
  cases i <;> simp only [effect, storeEffect, dataEffect]
@[simp] theorem effect_pending (i : Instr) (s : State) (l : Latch) : (effect i s l).pending = s.pending := by
  cases i <;> simp only [effect, storeEffect, dataEffect]
@[simp] theorem effect_reads (i : Instr) (s : State) (l : Latch) : (effect i s l).reads = s.reads := by
  cases i <;> simp only [effect, storeEffect, dataEffect]

/-- A command that answers a next state was running, and ended with its first failing check's error or with its effect. -/
theorem exec_next {i : Instr} {s t : State} (h : exec i s = .next t) :
    ∃ l, s.running = some l ∧
      ((∃ e, firstFailure i s l = some e ∧ t = s.failed e) ∨
        (firstFailure i s l = none ∧ t = (effect i s l).complete)) := by
  cases hr : s.running with
  | none => simp [exec_idle hr] at h
  | some l =>
    rw [exec_eq hr, answer] at h
    refine ⟨l, rfl, ?_⟩
    split at h
    · rename_i e he
      exact .inl ⟨e, he, by simpa using h.symm⟩
    · rename_i he
      exact .inr ⟨he, by simpa using h.symm⟩

end Sys2Proof.Machine
end

