-- ==== Sys2Proof/Laws/PerInstr.lean ====
section
/-! SUPPORT. Statements about every command as the host's case split names them: each well-formed command's encoding
is selected by its own row of the table of R109. -/

namespace Sys2Proof.Laws.RowSelects

/-- The word of a well-formed command is selected by a row of R109 with its mnemonic. -/
def Statement (i : Instr) : Prop :=
  i.wellFormed = true → ∃ row ∈ opcodeTable, row.mnemonic = i.mnemonic ∧ row.selects (encode i) = true

theorem nop : Statement .nop := fun _ => ⟨opcodeTable[0], by decide, by decide, by decide⟩
theorem keyld : Statement .keyld := fun _ => ⟨opcodeTable[1], by decide, by decide, by decide⟩
theorem rdrk (r : BitVec 4) : Statement (.rdrk r) := fun h => ⟨opcodeTable[2], by decide, rfl, by revert r; decide⟩
theorem sbox (a : Byte) : Statement (.sbox a) := fun h => ⟨opcodeTable[3], by decide, rfl, by revert a; decide⟩
theorem isbox (a : Byte) : Statement (.isbox a) := fun h => ⟨opcodeTable[4], by decide, rfl, by revert a; decide⟩
theorem ldst : Statement .ldst := fun _ => ⟨opcodeTable[5], by decide, by decide, by decide⟩
theorem stst : Statement .stst := fun _ => ⟨opcodeTable[6], by decide, by decide, by decide⟩
theorem subb : Statement .subb := fun _ => ⟨opcodeTable[7], by decide, by decide, by decide⟩
theorem isubb : Statement .isubb := fun _ => ⟨opcodeTable[8], by decide, by decide, by decide⟩
theorem shr : Statement .shr := fun _ => ⟨opcodeTable[9], by decide, by decide, by decide⟩
theorem ishr : Statement .ishr := fun _ => ⟨opcodeTable[10], by decide, by decide, by decide⟩
theorem mixc : Statement .mixc := fun _ => ⟨opcodeTable[11], by decide, by decide, by decide⟩
theorem imixc : Statement .imixc := fun _ => ⟨opcodeTable[12], by decide, by decide, by decide⟩
theorem ark (r : BitVec 4) : Statement (.ark r) := fun h => ⟨opcodeTable[13], by decide, rfl, by revert r; decide⟩
theorem encb : Statement .encb := fun _ => ⟨opcodeTable[14], by decide, by decide, by decide⟩
theorem decb : Statement .decb := fun _ => ⟨opcodeTable[15], by decide, by decide, by decide⟩
theorem cfgecb : Statement .cfgecb := fun _ => ⟨opcodeTable[16], by decide, by decide, by decide⟩
theorem cfgcbc : Statement .cfgcbc := fun _ => ⟨opcodeTable[17], by decide, by decide, by decide⟩
theorem cfgctr : Statement .cfgctr := fun _ => ⟨opcodeTable[18], by decide, by decide, by decide⟩
theorem setiv : Statement .setiv := fun _ => ⟨opcodeTable[19], by decide, by decide, by decide⟩
theorem getiv : Statement .getiv := fun _ => ⟨opcodeTable[20], by decide, by decide, by decide⟩
theorem rdctr : Statement .rdctr := fun _ => ⟨opcodeTable[21], by decide, by decide, by decide⟩
theorem ecbenc : Statement .ecbenc := fun _ => ⟨opcodeTable[22], by decide, by decide, by decide⟩
theorem ecbdec : Statement .ecbdec := fun _ => ⟨opcodeTable[23], by decide, by decide, by decide⟩
theorem cbcenc : Statement .cbcenc := fun _ => ⟨opcodeTable[24], by decide, by decide, by decide⟩
theorem cbcdec : Statement .cbcdec := fun _ => ⟨opcodeTable[25], by decide, by decide, by decide⟩
theorem ctrenc : Statement .ctrenc := fun _ => ⟨opcodeTable[26], by decide, by decide, by decide⟩
theorem ctrdec : Statement .ctrdec := fun _ => ⟨opcodeTable[27], by decide, by decide, by decide⟩

end Sys2Proof.Laws.RowSelects
end

