-- ==== Sys2Proof/Machine/HostProgram.lean ====
section
/-! DEFINITION. Host programs as event lists (spec/30_encoding.md rules R113 and R114): the operations WR, RD and
POLL, the command mnemonics, and the pseudo-instructions with their expansions. -/

namespace Sys2Proof.Machine

/-- The targets of WR and RD (R113), and the two read-only registers that the programs of
spec/95_test_vectors.md read. -/
inductive Target where
  | cmd
  | status
  | errlen
  | src
  | dst
  | len
  | result
  /-- `M[off]`: the DMEM word at byte offset `off`, a multiple of 4. -/
  | m (off : Word)
  deriving DecidableEq, Repr

/-- The window offset of a target (R49, R113). -/
def Target.offset : Target → Word
  | .cmd => 0x000
  | .status => 0x004
  | .errlen => 0x008
  | .src => 0x00C
  | .dst => 0x010
  | .len => 0x014
  | .result => 0x018
  | .m off => 0x1000 + off

/-- `WR <target>, <value>`: one host write. -/
def wr (t : Target) (v : Word) : List Event := [.write t.offset v]

/-- `RD <target>`: one host read. -/
def rd (t : Target) : List Event := [.read t.offset]

/-- `POLL`: it "repeats RD STATUS until bit 0 (BUSY) reads 0". The engine takes its step before the last of
those reads (R81, weak fairness), and the earlier ones change nothing of the engine (R76), so the model
lists the step and that last read. -/
def poll : List Event := .engine :: rd .status

/-- A command mnemonic alone: `WR CMD, <its word>`. -/
def submit (i : Instr) : List Event := wr .cmd (encode i)

/-- `DO <cmd>`: `<cmd>` then `POLL`. -/
def doCommand (i : Instr) : List Event := submit i ++ poll

/-- `g[0] | g[1]<<8 | g[2]<<16 | g[3]<<24` of a 4-byte group (R114). -/
def groupWord (b0 b1 b2 b3 : Byte) : Word :=
  b0.setWidth 32 ||| b1.setWidth 32 <<< 8 ||| b2.setWidth 32 <<< 16 ||| b3.setWidth 32 <<< 24

/-- `LOADB <off>, <hex>`: one write per 4-byte group. A string length that is no multiple of 4 has no expansion,
and its last bytes are left out here. -/
def loadb (off : Word) : List Byte → List Event
  | b0 :: b1 :: b2 :: b3 :: bs => wr (.m off) (groupWord b0 b1 b2 b3) ++ loadb (off + 4) bs
  | _ => []

/-- `key.load <src>`. -/
def keyLoad (src : Word) : List Event := wr .src src ++ wr .len 16 ++ doCommand .keyld
/-- `ecb.init`. -/
def ecbInit : List Event := doCommand .cfgecb
/-- `cbc.init <src>`. -/
def cbcInit (src : Word) : List Event := wr .src src ++ wr .len 16 ++ doCommand .cfgcbc
/-- `cbc.setiv <src>`. -/
def cbcSetiv (src : Word) : List Event := wr .src src ++ wr .len 16 ++ doCommand .setiv
/-- `cbc.getiv <dst>`. -/
def cbcGetiv (dst : Word) : List Event := wr .dst dst ++ doCommand .getiv
/-- `ctr.init <src>, <len>`. -/
def ctrInit (src len : Word) : List Event := wr .src src ++ wr .len len ++ doCommand .cfgctr
/-- `ctr.read <dst>`. -/
def ctrRead (dst : Word) : List Event := wr .dst dst ++ doCommand .rdctr
/-- `rk.read <dst>, <r>`. -/
def rkRead (dst : Word) (r : BitVec 4) : List Event := wr .dst dst ++ doCommand (.rdrk r)
/-- `st.load <src>`. -/
def stLoad (src : Word) : List Event := wr .src src ++ doCommand .ldst
/-- `st.store <dst>`. -/
def stStore (dst : Word) : List Event := wr .dst dst ++ doCommand .stst

/-- `WR SRC, <src> ; WR DST, <dst> ; WR LEN, <len> ; DO <cmd>`: the form of the six data pseudo-instructions. -/
def dataRun (i : Instr) (dst src len : Word) : List Event :=
  wr .src src ++ wr .dst dst ++ wr .len len ++ doCommand i

/-- `ecb.enc <dst>, <src>, <len>`. -/
def ecbEnc (dst src len : Word) : List Event := dataRun .ecbenc dst src len
/-- `ecb.dec <dst>, <src>, <len>`. -/
def ecbDec (dst src len : Word) : List Event := dataRun .ecbdec dst src len
/-- `cbc.enc <dst>, <src>, <len>`. -/
def cbcEnc (dst src len : Word) : List Event := dataRun .cbcenc dst src len
/-- `cbc.dec <dst>, <src>, <len>`. -/
def cbcDec (dst src len : Word) : List Event := dataRun .cbcdec dst src len
/-- `ctr.enc <dst>, <src>, <len>`. -/
def ctrEnc (dst src len : Word) : List Event := dataRun .ctrenc dst src len
/-- `ctr.dec <dst>, <src>, <len>`. -/
def ctrDec (dst src len : Word) : List Event := dataRun .ctrdec dst src len

end Sys2Proof.Machine
end

