-- ==== Sys2Proof/Tests/Slice0.lean ====
section
/-! SUPPORT. The model's own tests: ill-formed terms refused, every command's word written out from
spec/30_encoding.md rule R109, one step of every command against the values of spec/95_test_vectors.md (or
of the command's own rule), and a witness for the hypotheses of every obligation. -/

namespace Sys2Proof.Tests

-- One thread: a theorem's kernel evaluation in a thread of its own takes a whole stack of memory.
set_option Elab.async false

open Sys2Proof.Machine

/-! Helpers. -/

/-- The block written as 32 hex digits, first byte leftmost (R12). -/
abbrev hex (v : Counter) : Block := toBE16 v

/-- The key of spec/95_test_vectors.md S1. -/
abbrev keyS1 : Block := hex 0x2b7e151628aed2a6abf7158809cf4f3c
/-- The plaintext of S1. -/
abbrev plainS1 : Block := hex 0x3243f6a8885a308d313198a2e0370734
/-- The ciphertext of S1. -/
abbrev cipherS1 : Block := hex 0x3925841d02dc09fbdc118597196a0b32
/-- The IV of S2, the counter of S3. -/
abbrev ivS2 : Counter := 0x0123456789abcdef0123456789abcdef

/-- The reset state with a byte string at DMEM offset a and the three operands. -/
def loaded (a : Nat) (bs : List Byte) (src dst len : Word) : State :=
  { State.reset with dmem := State.reset.dmem.writeBytes a bs, src := src, dst := dst, len := len }

/-- The same with the key of S1 loaded, a mode, and the IV and counter of S2 and S3. -/
def keyed (m : Mode) (a : Nat) (bs : List Byte) (src dst len : Word) : State :=
  { loaded a bs src dst len with
    rk := expandKey keyS1, keyv := true, mode := m, iv := hex ivS2, ctr := ivS2 }

/-- What one step gives on s with the command word w submitted. -/
def stepWord (s : State) (w : Word) : Option State :=
  match step (s.withFetchWord 32 w.toNat) with
  | .next t => some t
  | .fault _ => none
  | .refused _ => none

/-- The step answers a next state, idle again, of which p holds. -/
def runs (s : State) (w : Word) (p : State → Bool) : Bool :=
  match stepWord s w with
  | some t => !t.busy && p t
  | none => false

/-- s with the command i accepted and nothing else to come. -/
def accepted (i : Instr) (s : State) : State := accept s (encode i)

/-! WellFormed: an ill-formed term for each check. -/

theorem test_wellFormed_ark : (Instr.ark 11).wellFormed = false := by decide
theorem test_wellFormed_rdrk : (Instr.rdrk 15).wellFormed = false := by decide
theorem test_wellFormed_highest : (Instr.ark 10).wellFormed = true ∧ (Instr.rdrk 10).wellFormed = true := by decide

/-! Decode: the words of R109, bit 31 first, and the illegal words of R110 and R115. -/

theorem test_decode_nop : decode 0b00000000_0000_000000000000_00000000 = .ok .nop := by decide
theorem test_decode_keyld : decode 0b00010000_0000_000000000000_00000000 = .ok .keyld := by decide
theorem test_decode_rdrk : decode 0b00010001_0001_000000000000_00000000 = .ok (.rdrk 1) := by decide
theorem test_decode_sbox : decode 0b00100000_0000_000000000000_01010011 = .ok (.sbox 0x53) := by decide
theorem test_decode_isbox : decode 0b00100001_0000_000000000000_11101101 = .ok (.isbox 0xED) := by decide
theorem test_decode_ldst : decode 0b00110000_0000_000000000000_00000000 = .ok .ldst := by decide
theorem test_decode_stst : decode 0b00110001_0000_000000000000_00000000 = .ok .stst := by decide
theorem test_decode_subb : decode 0b00110010_0000_000000000000_00000000 = .ok .subb := by decide
theorem test_decode_isubb : decode 0b00110011_0000_000000000000_00000000 = .ok .isubb := by decide
theorem test_decode_shr : decode 0b00110100_0000_000000000000_00000000 = .ok .shr := by decide
theorem test_decode_ishr : decode 0b00110101_0000_000000000000_00000000 = .ok .ishr := by decide
theorem test_decode_mixc : decode 0b00110110_0000_000000000000_00000000 = .ok .mixc := by decide
theorem test_decode_imixc : decode 0b00110111_0000_000000000000_00000000 = .ok .imixc := by decide
theorem test_decode_ark : decode 0b00111000_1010_000000000000_00000000 = .ok (.ark 10) := by decide
theorem test_decode_encb : decode 0b01000000_0000_000000000000_00000000 = .ok .encb := by decide
theorem test_decode_decb : decode 0b01000001_0000_000000000000_00000000 = .ok .decb := by decide
theorem test_decode_cfgecb : decode 0b01010000_0000_000000000000_00000000 = .ok .cfgecb := by decide
theorem test_decode_cfgcbc : decode 0b01010001_0000_000000000000_00000000 = .ok .cfgcbc := by decide
theorem test_decode_cfgctr : decode 0b01010010_0000_000000000000_00000000 = .ok .cfgctr := by decide
theorem test_decode_setiv : decode 0b01010011_0000_000000000000_00000000 = .ok .setiv := by decide
theorem test_decode_getiv : decode 0b01010100_0000_000000000000_00000000 = .ok .getiv := by decide
theorem test_decode_rdctr : decode 0b01010101_0000_000000000000_00000000 = .ok .rdctr := by decide
theorem test_decode_ecbenc : decode 0b01100000_0000_000000000000_00000000 = .ok .ecbenc := by decide
theorem test_decode_ecbdec : decode 0b01100001_0000_000000000000_00000000 = .ok .ecbdec := by decide
theorem test_decode_cbcenc : decode 0b01100010_0000_000000000000_00000000 = .ok .cbcenc := by decide
theorem test_decode_cbcdec : decode 0b01100011_0000_000000000000_00000000 = .ok .cbcdec := by decide
theorem test_decode_ctrenc : decode 0b01100100_0000_000000000000_00000000 = .ok .ctrenc := by decide
theorem test_decode_ctrdec : decode 0b01100101_0000_000000000000_00000000 = .ok .ctrdec := by decide

theorem test_decode_illegal :
    decode 0x38B00000 = .error .ridxOutOfRange ∧ decode 0x38F00000 = .error .ridxOutOfRange ∧
    decode 0x20100053 = .error .strayRidx ∧ decode 0x20000100 = .error .reservedBits ∧
    decode 0x30000001 = .error .strayImm8 ∧ decode 0x7F000000 = .error .unassignedOpcode := by decide

/-- The host's two questions, on the word of RDRK 10. -/
theorem test_host_word : decodeTableWord 32 0x11A00000 = some (.rdrk 10) ∧
    (State.reset.withFetchWord 32 0x11A00000).running.map (·.cmd) = some 0x11A00000 := by decide

/-! One step of each command. Expected values: spec/95_test_vectors.md (V1 to V9, S1 to S8) or the rule named. -/

/-- `ToBE16` byte by byte (R15). -/
theorem test_hex : blockBytes (hex 0x000102030405060708090a0b0c0d0e0f) =
    [0, 1, 2, 3, 4, 5, 6, 7, 8, 9, 10, 11, 12, 13, 14, 15] := by decide +kernel

/-- R240: NOP clears a reported error and nothing else. -/
theorem test_nop : runs { State.reset with err := true, errcode := 1, errlen := 3, keyv := true } 0x00000000
    (fun t => !t.err && t.errcode == 0 && t.errlen == 0 && t.keyv && t.cmdr == 0) = true := by decide +kernel

/-- S8: the all-zero key. -/
theorem test_keyld : runs (loaded 0 (blockBytes Block.zero) 0 0 16) 0x10000000
    (fun t => t.keyv && t.mode == .none && roundKeyAt t.rk 1 == hex 0x62636363626363636263636362636363) = true := by
  decide +kernel

/-- V3: the length is checked before the range, and KEYV stays 0. -/
theorem test_keyld_length : runs (loaded 0 [] 4090 0 3) 0x10000000
    (fun t => t.status == 0x00000102 && t.errlen == 3) = true := by decide +kernel

/-- V3: RDRK 10, R207's worked example. -/
theorem test_rdrk : runs (keyed .none 0 [] 0 0x40 0) 0x11A00000
    (fun t => t.dmem.cells == (State.reset.dmem.writeBytes 0x40
      (blockBytes (hex 0xd014f9a8c9ee2589e13f0cc8b6630ca6))).cells) = true := by decide +kernel

/-- V3: without a key. -/
theorem test_rdrk_noKey : runs State.reset 0x11000000 (fun t => t.status == 0x00000502) = true := by decide +kernel

/-- V1. -/
theorem test_sbox : runs State.reset 0x20000053 (fun t => t.result == 0xED && t.status == 0) = true := by decide +kernel
/-- V1. -/
theorem test_isbox : runs State.reset 0x210000ED (fun t => t.result == 0x53) = true := by decide +kernel

/-- R170's worked example, from an unaligned offset. -/
theorem test_ldst : runs (loaded 3 [0, 1, 2, 3, 4, 5, 6, 7, 8, 9, 10, 11, 12, 13, 14, 15] 3 0 0) 0x30000000
    (fun t => t.state == hex 0x000102030405060708090a0b0c0d0e0f) = true := by decide +kernel
/-- V2: the highest legal offset is DMEM_SIZE - 16. -/
theorem test_ldst_range : runs (loaded 0 [] 4081 0 0) 0x30000000 (fun t => t.status == 0x00000702) = true := by
  decide +kernel

/-- V2: STST at 4080 succeeds, byte k at DST + k. -/
theorem test_stst : runs { loaded 0 [] 0 4080 0 with state := hex 0x000102030405060708090a0b0c0d0e0f } 0x31000000
    (fun t => t.dmem.cells == (List.range 16).map (fun k => (4080 + k, BitVec.ofNat 8 k))) = true := by decide +kernel
/-- V2: STST at 4081 fails and stores nothing. -/
theorem test_stst_range : runs (loaded 0 [] 0 4081 0) 0x31000000
    (fun t => t.status == 0x00000702 && t.dmem.cells.isEmpty) = true := by decide +kernel

/-- The value B of V2. -/
abbrev stateB : State := { State.reset with state := hex 0x193de3bea0f4e22b9ac68d2ae9f84808 }

/-- V2. -/
theorem test_subb : runs stateB 0x32000000 (fun t => t.state == hex 0xd42711aee0bf98f1b8b45de51e415230) = true := by
  decide +kernel
/-- V2. -/
theorem test_isubb : runs stateB 0x33000000 (fun t => t.state == hex 0x8e8b4d5a47ba3b0b37c7b495ebe1d4bf) = true := by
  decide +kernel
/-- V2. -/
theorem test_shr : runs stateB 0x34000000 (fun t => t.state == hex 0x19f48d08a0c648be9af8e32be93de22a) = true := by
  decide +kernel
/-- V2. -/
theorem test_ishr : runs stateB 0x35000000 (fun t => t.state == hex 0x19f88d2ba03d482a9af4e308e9c6e2be) = true := by
  decide +kernel
/-- V2. -/
theorem test_mixc : runs stateB 0x36000000 (fun t => t.state == hex 0x28e320929545f6bbd9ab23aa9ad29980) = true := by
  decide +kernel
/-- V2. -/
theorem test_imixc : runs stateB 0x37000000 (fun t => t.state == hex 0x083c004d0290616e1cafe6ae968195d3) = true := by
  decide +kernel

/-- V2, the round-1 sequence: ARK 1 after MIXC. -/
theorem test_ark : runs { keyed .none 0 [] 0 0 0 with state := hex 0x046681e5e0cb199a48f8d37a2806264c } 0x38100000
    (fun t => t.state == hex 0xa49c7ff2689f352b6b5bea43026a5049) = true := by decide +kernel
/-- R178: the index is checked before the key. -/
theorem test_ark_illegal : runs State.reset 0x38B00000 (fun t => t.status == 0x00000402) = true := by decide +kernel

/-- V4. -/
theorem test_encb : runs { keyed .ctr 0 [] 0 0 0 with state := plainS1 } 0x40000000
    (fun t => t.state == cipherS1 && t.ctr == ivS2) = true := by decide +kernel
/-- V4: InvCipher of a block that is no ciphertext of the vectors. -/
theorem test_decb : runs { keyed .none 0 [] 0 0 0 with state := plainS1 } 0x41000000
    (fun t => t.state == hex 0xcb13389c1d59c1d50d11f6b90c38ce7f) = true := by decide +kernel

/-- R244's worked example. -/
theorem test_cfgecb : runs (keyed .none 0 [] 0 0 0) 0x50000000 (fun t => t.status == 0x00000018) = true := by
  decide +kernel

/-- R245's worked example. -/
theorem test_cfgcbc : runs { keyed .none 0x20 (blockBytes (hex ivS2)) 0x20 0 16 with iv := Block.zero } 0x51000000
    (fun t => t.iv == hex ivS2 && t.mode == .cbc) = true := by decide +kernel
/-- S7. -/
theorem test_cfgcbc_length : runs (keyed .none 0 [] 0 0 1) 0x51000000
    (fun t => t.errcode == 2 && t.errlen == 1 && t.mode == .none) = true := by decide +kernel

/-- R246: a seed longer than 16 bytes keeps its last 16. -/
theorem test_cfgctr : runs (keyed .none 0x100 (0xFF :: blockBytes (hex ivS2)) 0x100 0 17) 0x52000000
    (fun t => t.ctr == ivS2 && t.mode == .ctr) = true := by decide +kernel
/-- V5: LEN = 2 gives the big-endian value of two bytes. -/
theorem test_cfgctr_short : runs (keyed .none 0x100 [0xA0, 0xA1] 0x100 0 2) 0x52000000
    (fun t => t.ctr == 0xA0A1) = true := by decide +kernel

/-- R247's worked example. -/
theorem test_setiv : runs (keyed .cbc 0x30 (blockBytes Block.zero) 0x30 0 16) 0x53000000
    (fun t => t.iv == Block.zero && t.mode == .cbc) = true := by decide +kernel
/-- R322: WRONG_MODE comes before the length error. -/
theorem test_setiv_mode : runs (keyed .ctr 0 [] 0 0 1) 0x53000000
    (fun t => t.errcode == 6 && t.errlen == 0) = true := by decide +kernel

/-- R248's worked example. -/
theorem test_getiv : runs (keyed .cbc 0 [] 0 0x80 0) 0x54000000
    (fun t => t.dmem.cells == (State.reset.dmem.writeBytes 0x80 (blockBytes (hex ivS2))).cells) = true := by
  decide +kernel

/-- R249: the counter is stored big-endian. -/
theorem test_rdctr : runs { keyed .ctr 0 [] 0 0 0 with ctr := 0x0102 } 0x55000000
    (fun t => t.dmem.cells.getLast? == some (15, 0x02) && t.dmem.cells.head? == some (0, 0x00)) = true := by
  decide +kernel

/-- S1. -/
theorem test_ecbenc : runs (keyed .ecb 0 (blockBytes plainS1) 0 0 16) 0x60000000
    (fun t => t.dmem.cells == (State.reset.dmem.writeBytes 0 (blockBytes cipherS1)).cells) = true := by decide +kernel
/-- S4. -/
theorem test_ecbenc_length : runs (keyed .ecb 0 [] 0 0 3) 0x60000000
    (fun t => t.errcode == 3 && t.errlen == 3 && t.dmem.cells.isEmpty) = true := by decide +kernel
/-- R271's worked example. -/
theorem test_ecbdec : runs (keyed .ecb 0 (blockBytes cipherS1) 0 0 16) 0x61000000
    (fun t => t.dmem.cells == (State.reset.dmem.writeBytes 0 (blockBytes plainS1)).cells) = true := by decide +kernel
/-- P5: a partial overlap is refused. -/
theorem test_ecbenc_overlap : runs (keyed .ecb 0 [] 0 8 16) 0x60000000
    (fun t => t.status == 0x0000081A && t.dmem.cells.isEmpty) = true := by decide +kernel

/-- S2: and the IV keeps its value (R282). -/
theorem test_cbcenc : runs (keyed .cbc 0 (blockBytes plainS1) 0 0 16) 0x62000000
    (fun t => t.iv == hex ivS2 && t.dmem.cells ==
      (State.reset.dmem.writeBytes 0 (blockBytes (hex 0x6af84ce5aaa86deb0dfe2d3a772ca014))).cells) = true := by
  decide +kernel
/-- R281's worked example. -/
theorem test_cbcdec : runs (keyed .cbc 0 (blockBytes (hex 0x6af84ce5aaa86deb0dfe2d3a772ca014)) 0 0 16) 0x63000000
    (fun t => t.dmem.cells == (State.reset.dmem.writeBytes 0 (blockBytes plainS1)).cells) = true := by decide +kernel

/-- S3 and R300: one byte of output, and the counter advances by 1. -/
theorem test_ctrenc : runs (keyed .ctr 0x40 [0x78] 0x40 0x80 1) 0x64000000
    (fun t => t.dmem.cells == [(0x40, 0x78), (0x80, 0xAC)] && t.ctr == 0x0123456789abcdef0123456789abcdf0) = true := by
  decide +kernel
/-- R305: the counter wraps. -/
theorem test_ctrenc_wrap : runs { keyed .ctr 0x40 [0x78] 0x40 0x80 1 with ctr := -1 } 0x64000000
    (fun t => t.ctr == 0) = true := by decide +kernel
/-- R302's worked example. -/
theorem test_ctrdec : runs (keyed .ctr 0x40 [0xAC] 0x40 0x80 1) 0x65000000
    (fun t => t.dmem.cells == [(0x40, 0xAC), (0x80, 0x78)]) = true := by decide +kernel
/-- R304: LEN = 0 writes nothing and leaves CTR, wherever the operands point. -/
theorem test_ctrdec_empty : runs (keyed .ctr 0 [] 0xFFFFFFFF 0xFFFFFFFF 0) 0x65000000
    (fun t => !t.err && t.ctr == ivS2 && t.dmem.cells.isEmpty) = true := by decide +kernel

/-- R114: `LOADB` lays the bytes out in increasing address order. -/
theorem test_loadb : loadb 0x10 [0x32, 0x43, 0xf6, 0xa8] = [.write 0x1010 0xA8F64332] := by decide +kernel

/-! Witnesses: for each obligation with hypotheses, a concrete state and operands that meet all of them together, and
for one with several clauses, one for each clause at a boundary value. -/

/-- Whether two DMEM bytes differ or a register differs after the step. -/
def changed (s : State) (w : Word) (differ : State → State → Bool) : Bool :=
  match stepWord s w with
  | some t => differ s t
  | none => false

theorem test_witness_DecodeOfEncode :
    (Instr.ark 10).wellFormed = true ∧ (Instr.rdrk 0).wellFormed = true ∧ (Instr.sbox 0xFF).wellFormed = true := by
  decide

theorem test_witness_EncodeOfDecode : decode 0x38A00000 = .ok (.ark 10) ∧ decode 0x200000FF = .ok (.sbox 0xFF) := by
  decide

theorem test_witness_StepRunsDecodedCommand :
    (∃ (s : State) (l : Latch) (es : List Event), s.running = some l ∧ decode l.cmd = .ok .subb ∧
      s.pending = .engine :: es ∧ l.disturbed = []) ∧
    (∃ (s : State) (l : Latch), s.running = some l ∧ decode l.cmd = .ok .subb ∧ s.pending = [] ∧
      l.disturbed = []) :=
  ⟨⟨{ accepted .subb State.reset with pending := [.engine, .read 4] }, _, _, rfl, by decide, rfl, rfl⟩,
    ⟨accepted .subb State.reset, _, rfl, by decide, rfl, rfl⟩⟩

theorem illegal_7F : ∀ i, decode 0x7F000000 ≠ .ok i := by
  intro i h
  have e : decode 0x7F000000 = .error .unassignedOpcode := by decide
  exact absurd (e.symm.trans h) (by simp)

theorem test_witness_IllegalWordCompletes :
    ∃ (s : State) (l : Latch) (es : List Event), s.running = some l ∧ (∀ i, decode l.cmd ≠ .ok i) ∧
      l.disturbed = [] ∧ s.pending = .engine :: es :=
  ⟨{ accept State.reset 0x7F000000 with pending := [.engine] }, _, _, rfl, illegal_7F, rfl, rfl⟩

theorem test_witness_IllegalWordsAreThoseListed :
    ∃ (s : State) (l : Latch), s.running = some l ∧ (∀ i, decode l.cmd ≠ .ok i) ∧ l.disturbed = [] :=
  ⟨accept State.reset 0x7F000000, _, rfl, illegal_7F, rfl⟩

theorem test_witness_CmdWriteAcceptsOrOverruns :
    (∃ (s : State) (es : List Event), s.pending = .write 3 0x10000000 :: es ∧ s.busy = false) ∧
    (∃ (s : State) (es : List Event), s.pending = .write 0 0x10000000 :: es ∧ s.busy = true) :=
  ⟨⟨{ State.reset with pending := [.write 3 0x10000000] }, _, rfl, by decide⟩,
    ⟨{ accepted .nop State.reset with pending := [.write 0 0x10000000] }, _, rfl, by decide⟩⟩

theorem test_witness_SubmittedCommandRuns :
    ∃ (s : State) (es : List Event), (Instr.ark 10).wellFormed = true ∧ s.busy = false ∧ (3 : Word).toNat < 4 ∧
      s.pending = .write 3 (encode (.ark 10)) :: .engine :: es :=
  ⟨{ State.reset with pending := [.write 3 (encode (.ark 10)), .engine] }, _, by decide, by decide, by decide, rfl⟩

theorem test_witness_RunningCommandCompletes :
    (∃ s : State, s.pending = [] ∧ s.busy = true) ∧ ∃ s : State, s.pending = [] ∧ s.busy = false :=
  ⟨⟨accepted .nop State.reset, rfl, by decide⟩, State.reset, rfl, by decide⟩

/-- For the obligations whose one hypothesis is BUSY = 1. -/
theorem test_witness_busy : ∃ s : State, s.busy = true := ⟨accepted .nop State.reset, by decide⟩

/-- R81: an idle engine has no execution step, a busy one has. -/
theorem test_witness_ExecutionEnabledWhileBusy :
    (∃ t, exec .nop (accepted .nop State.reset) = .next t ∧ t.busy = false) ∧
    exec .nop State.reset = .fault .engineIdle := ⟨⟨_, rfl, rfl⟩, rfl⟩

theorem test_witness_FirstFailingCheckIsReported :
    (∃ (s : State) (l : Latch) (e : CmdError), s.running = some l ∧
      (checks .cbcenc s l).find? (·.1) = some (true, e)) ∧
    ∃ (s : State) (l : Latch), s.running = some l ∧ passes .cbcenc s l = true :=
  ⟨⟨accepted .cbcenc State.reset, _, .wrongMode, rfl, by decide +kernel⟩,
    ⟨accepted .cbcenc (keyed .cbc 0 [] 0 4080 16), _, rfl, by decide +kernel⟩⟩

theorem test_witness_FailedCommandChangesOnlyErrorFields :
    ∃ (s t : State) (l : Latch), s.running = some l ∧ s.err = false ∧ exec .encb s = .next t ∧ t.err = true :=
  ⟨accepted .encb State.reset, _, _, rfl, rfl, rfl, rfl⟩

theorem test_witness_NoKeyIsRaisedBySevenCommands :
    ∃ s : State, (Instr.ark 10).wellFormed = true ∧ s.busy = true ∧ s.err = false ∧ s.keyv = false :=
  ⟨accepted (.ark 10) State.reset, by decide, by decide, rfl, rfl⟩

theorem test_witness_WrongModeIsRaisedByTable : ∃ s : State, s.busy = true ∧ s.err = false ∧ s.mode ≠ .cbc :=
  ⟨accepted .getiv State.reset, by decide, rfl, by decide⟩

/-- The edges of R241: the last legal range, the first illegal one, the empty one, and ranges that just touch. -/
theorem test_witness_RangeAndOverlapChecks :
    rangeFails State.reset 4080 16 = false ∧ rangeFails State.reset 4081 16 = true ∧
    rangeFails State.reset 0xFFFFFFFF 0 = false ∧ overlapFails 0 16 16 = false ∧ overlapFails 0 15 16 = true ∧
    overlapFails 15 0 16 = true ∧ overlapFails 7 7 16 = false ∧ overlapFails 0 1 0 = false := by decide

theorem test_witness_OnlyNamedCommandsWriteEachRegister :
    changed (loaded 0 (blockBytes keyS1) 0 0 16) 0x10000000 (fun s t => t.rk != s.rk && t.keyv != s.keyv) = true ∧
    changed (keyed .none 0 [] 0 0 0) 0x50000000 (fun s t => t.mode != s.mode) = true ∧
    changed State.reset 0x32000000 (fun s t => t.state != s.state) = true ∧
    changed (keyed .cbc 0 (blockBytes keyS1) 0 0 16) 0x53000000 (fun s t => t.iv != s.iv) = true ∧
    changed (keyed .ctr 0 [0] 0 0 1) 0x64000000 (fun s t => t.ctr != s.ctr) = true ∧
    changed State.reset 0x20000000 (fun s t => t.result != s.result) = true ∧
    changed (loaded 15 [0xFF] 0 0 0) 0x31000000 (fun s t => t.dmem.read 15 != s.dmem.read 15) = true := by
  decide +kernel

theorem test_witness_KeyedStateCommands :
    ∃ s : State, s.busy = true ∧ s.keyv = true ∧ (10 : BitVec 4).toNat ≤ 10 :=
  ⟨accepted (.ark 10) (keyed .none 0 [] 0 0 0), by decide, rfl, by decide⟩

theorem test_witness_LdstLoadsState :
    ∃ (s : State) (l : Latch), s.running = some l ∧ l.src.toNat + 16 ≤ s.cfg.dmemSize :=
  ⟨accepted .ldst (loaded 0 [] 4080 0 0), _, rfl, by decide⟩

theorem test_witness_StoringCommandsWriteDst :
    ∀ i ∈ [Instr.stst, .rdrk 10], ∃ (s : State) (l : Latch) (b : Block), s.running = some l ∧
      passes i s l = true ∧ storedBlock i s = some b := by
  intro i hi
  simp only [List.mem_cons, List.not_mem_nil, or_false] at hi
  rcases hi with rfl | rfl
  · exact ⟨accepted .stst (loaded 0 [] 0 4080 0), _, _, rfl, by decide +kernel, rfl⟩
  · exact ⟨accepted (.rdrk 10) (keyed .none 0 [] 0 4080 0), _, _, rfl, by decide +kernel, rfl⟩

theorem test_witness_StoringModeCommandsWriteDst :
    (∃ (s : State) (l : Latch) (b : Block), s.running = some l ∧ passes .getiv s l = true ∧
      storedBlock .getiv s = some b) ∧
    ∃ (s : State) (l : Latch) (b : Block), s.running = some l ∧ passes .rdctr s l = true ∧
      storedBlock .rdctr s = some b :=
  ⟨⟨accepted .getiv (keyed .cbc 0 [] 0 4080 0), _, _, rfl, by decide +kernel, rfl⟩,
    ⟨accepted .rdctr (keyed .ctr 0 [] 0 4080 0), _, _, rfl, by decide +kernel, rfl⟩⟩

theorem test_witness_StoringAndDataCommandsPassChecks :
    (∃ (s : State) (l : Latch), s.running = some l ∧ l.dst.toNat + 16 ≤ s.cfg.dmemSize ∧ s.keyv = true ∧
      s.mode = .cbc) ∧
    (∃ (s : State) (l : Latch), s.running = some l ∧ l.dst.toNat + 16 ≤ s.cfg.dmemSize ∧ s.mode = .ctr) ∧
    (∃ (s : State) (l : Latch), s.running = some l ∧ l.len = 0 ∧ s.mode = .ecb ∧ l.len.toNat % 16 = 0) ∧
    (∃ (s : State) (l : Latch), s.running = some l ∧ l.src.toNat + l.len.toNat ≤ s.cfg.dmemSize ∧
      l.dst.toNat + l.len.toNat ≤ s.cfg.dmemSize ∧ l.src.toNat + l.len.toNat ≤ l.dst.toNat ∧ s.mode = .cbc ∧
      l.len.toNat % 16 = 0) ∧
    ∃ (s : State) (l : Latch), s.running = some l ∧ l.src.toNat + l.len.toNat ≤ s.cfg.dmemSize ∧
      l.dst.toNat + l.len.toNat ≤ s.cfg.dmemSize ∧ l.src = l.dst ∧ s.mode = .ctr :=
  ⟨⟨accepted .getiv (keyed .cbc 0 [] 0 4080 0), _, rfl, by decide, rfl, rfl⟩,
    ⟨accepted .rdctr (keyed .ctr 0 [] 0 4080 0), _, rfl, by decide, rfl⟩,
    ⟨accepted .ecbenc (keyed .ecb 0 [] 5000 0 0), _, rfl, rfl, rfl, by decide⟩,
    ⟨accepted .cbcenc (keyed .cbc 0 [] 4064 4080 16), _, rfl, by decide, by decide, by decide, rfl, by decide⟩,
    ⟨accepted .ctrenc (keyed .ctr 0 [] 4095 4095 1), _, rfl, by decide, by decide, rfl, rfl⟩⟩

theorem test_witness_KeyldLoadsSchedule :
    (∃ (s : State) (l : Latch), s.running = some l ∧ l.len = 16 ∧ l.src.toNat + 16 ≤ s.cfg.dmemSize) ∧
    ∃ (s : State) (l : Latch), s.running = some l ∧ l.len ≠ 16 :=
  ⟨⟨accepted .keyld (loaded 0 [] 4080 0 16), _, rfl, rfl, by decide⟩,
    ⟨accepted .keyld (loaded 0 [] 0 0 17), _, rfl, by decide⟩⟩

theorem test_witness_NopAndCfgecb : ∃ s : State, s.busy = true ∧ s.keyv = true :=
  ⟨accepted .cfgecb (keyed .cbc 0 [] 0 0 0), by decide, rfl⟩

theorem test_witness_IvCommandsLoadIv :
    (∃ (s : State) (l : Latch), s.running = some l ∧ l.len = 16 ∧ l.src.toNat + 16 ≤ s.cfg.dmemSize ∧
      s.keyv = true ∧ s.mode = .cbc) ∧
    ∃ (s : State) (l : Latch), s.running = some l ∧ l.len ≠ 16 ∧ s.keyv = true ∧ s.mode = .cbc :=
  ⟨⟨accepted .setiv (keyed .cbc 0 [] 4080 0 16), _, rfl, rfl, by decide, rfl, rfl⟩,
    ⟨accepted .setiv (keyed .cbc 0 [] 0 0 15), _, rfl, by decide, rfl, rfl⟩⟩

theorem test_witness_CfgctrLoadsSeed :
    (∃ (s : State) (l : Latch), s.running = some l ∧ s.keyv = true ∧ l.len = 0 ∧
      ¬ l.src.toNat + l.len.toNat ≤ s.cfg.dmemSize) ∧
    ∃ (s : State) (l : Latch), s.running = some l ∧ s.keyv = true ∧
      l.src.toNat + l.len.toNat ≤ s.cfg.dmemSize ∧ 16 < l.len.toNat :=
  ⟨⟨accepted .cfgctr (keyed .none 0 [] 5000 0 0), _, rfl, rfl, rfl, by decide⟩,
    ⟨accepted .cfgctr (keyed .none 0 [] 0 0 4096), _, rfl, rfl, by decide, by decide⟩⟩

theorem test_witness_DataCommandsWriteOutput :
    (∀ i ∈ [Instr.ecbenc, .ecbdec], ∃ (s : State) (l : Latch) (o : List Byte) (c : Counter), s.running = some l ∧ passes i s l = true ∧
      dataOutput i s (s.dmem.readBytes l.src.toNat l.len.toNat) = some (o, c)) ∧
    (∀ i ∈ [Instr.cbcenc, .cbcdec], ∃ (s : State) (l : Latch) (o : List Byte) (c : Counter), s.running = some l ∧ passes i s l = true ∧
      dataOutput i s (s.dmem.readBytes l.src.toNat l.len.toNat) = some (o, c)) ∧
    ∀ i ∈ [Instr.ctrenc, .ctrdec], ∃ (s : State) (l : Latch) (o : List Byte) (c : Counter), s.running = some l ∧ passes i s l = true ∧
      dataOutput i s (s.dmem.readBytes l.src.toNat l.len.toNat) = some (o, c) := by
  refine ⟨?_, ?_, ?_⟩ <;> intro i hi <;> simp only [List.mem_cons, List.not_mem_nil, or_false] at hi <;>
    rcases hi with rfl | rfl
  · exact ⟨accepted .ecbenc (keyed .ecb 0 [] 0 4080 16), _, _, _, rfl, by decide +kernel, rfl⟩
  · exact ⟨accepted .ecbdec (keyed .ecb 0 [] 0 4080 16), _, _, _, rfl, by decide +kernel, rfl⟩
  · exact ⟨accepted .cbcenc (keyed .cbc 0 [] 4080 4080 16), _, _, _, rfl, by decide +kernel, rfl⟩
  · exact ⟨accepted .cbcdec (keyed .cbc 0 [] 4080 4080 16), _, _, _, rfl, by decide +kernel, rfl⟩
  · exact ⟨accepted .ctrenc (keyed .ctr 0 [] 0 4095 1), _, _, _, rfl, by decide +kernel, rfl⟩
  · exact ⟨accepted .ctrdec (keyed .ctr 0 [] 0 4095 1), _, _, _, rfl, by decide +kernel, rfl⟩

theorem test_witness_EcbBlocksAreIndependent : (blockBytes plainS1 ++ blockBytes plainS1).length % 16 = 0 ∧
    1 < (blockBytes plainS1 ++ blockBytes plainS1).length / 16 := by simp

theorem test_witness_CbcBlocksChain : (List.replicate 32 (0 : Byte)).length % 16 = 0 ∧
    0 < (List.replicate 32 (0 : Byte)).length / 16 ∧ 1 < (List.replicate 32 (0 : Byte)).length / 16 := by decide

theorem test_witness_CbcContinuesFromLastBlock : (List.replicate 16 (0 : Byte)).length % 16 = 0 ∧
    0 < (List.replicate 16 (0 : Byte)).length ∧ (List.replicate 32 (0 : Byte)).length % 16 = 0 := by decide

theorem test_witness_CbcDiffusion : ∃ (x y : List Byte) (i : Nat), x.length = y.length ∧ x.length % 16 = 0 ∧
    i < x.length / 16 ∧ blockNo x i ≠ blockNo y i ∧ ∀ j < x.length / 16, j ≠ i → blockNo x j = blockNo y j :=
  ⟨List.replicate 48 0, List.replicate 16 0 ++ 1 :: List.replicate 31 0, 1, by decide, by decide, by decide,
    by decide +kernel, by decide +kernel⟩

theorem test_witness_CtrStreamSplits : (List.replicate 16 (0 : Byte)).length % 16 = 0 := by decide

theorem test_witness_DecryptionInvertsEncryption : (List.replicate 32 (0 : Byte)).length % 16 = 0 := by decide

/-- Every clause of the register map at the edges of its range of offsets. -/
theorem test_witness_IdleReadsFollowRegisterMap :
    (∀ off : Word, ∃ (s : State) (es : List Event), s.busy = false ∧ s.pending = .read off :: es ∧
      s.cfg.dmemSize = 4096) ∧
    (0x003 : Word).toNat / 4 = 0 ∧ (0x004 : Word).toNat / 4 = 1 ∧ (0x00B : Word).toNat / 4 = 2 ∧
    (0x00C : Word).toNat / 4 = 3 ∧ (0x010 : Word).toNat / 4 = 4 ∧ (0x017 : Word).toNat / 4 = 5 ∧
    (0x01B : Word).toNat / 4 = 6 ∧ (0x01C : Word).toNat / 4 = 7 ∧ (0xFFF : Word).toNat / 4 = 0x400 - 1 ∧
    (0x1000 : Word).toNat / 4 = 0x400 + 0 ∧ (0x1FFF : Word).toNat / 4 = 0x400 + 1023 ∧ 4 * 1023 + 4 ≤ 4096 ∧
    0x1000 + 4096 < 4 * ((0x2000 : Word).toNat / 4) + 4 ∧ 0x1000 + 4096 < 4 * ((0xFFFFFFFF : Word).toNat / 4) + 4 :=
  ⟨fun off => ⟨{ State.reset with pending := [.read off] }, [], rfl, rfl, rfl⟩, by decide⟩

/-- The words just outside a running LDST's footprint of bytes 0 to 15, and the last word of DMEM. -/
theorem test_witness_BusyReadsThatAreSpecified : ∀ off : Word, ∃ (s : State) (es : List Event), s.busy = true ∧
    s.pending = .read off :: es ∧ (∀ j < 4, s.guarded (4 * 4 + j) = false) ∧
    (∀ j < 4, s.guarded (4 * 1023 + j) = false) ∧ 4 * 1023 + 4 ≤ s.cfg.dmemSize ∧ s.guarded (4 * 3 + 3) = true ∧
    s.cfg.dmemSize = 4096 :=
  fun off => by
    have g : (∀ j < 4, (accepted .ldst State.reset).guarded (4 * 4 + j) = false) ∧
        (∀ j < 4, (accepted .ldst State.reset).guarded (4 * 1023 + j) = false) ∧
        (accepted .ldst State.reset).guarded 15 = true := by decide +kernel
    exact ⟨{ accepted .ldst State.reset with pending := [.read off] }, [], rfl, rfl, g.1, g.2.1,
      by rw [show State.cfg _ = Config.worked from rfl]; decide, g.2.2, rfl⟩

/-- Every clause at the edges of its range of offsets: the register words 1 to 5, RESULT and the last reserved word
below DMEM, and the first and last words above it. -/
theorem test_witness_RegisterWrites :
    (∀ off v : Word, ∃ (s : State) (es : List Event), s.pending = .write off v :: es ∧ s.cfg.dmemSize = 4096) ∧
    (0x00F : Word).toNat / 4 = 3 ∧ (0x010 : Word).toNat / 4 = 4 ∧ (0x017 : Word).toNat / 4 = 5 ∧
    (0x004 : Word).toNat / 4 = 1 ∧ (0x00B : Word).toNat / 4 = 2 ∧
    6 ≤ (0x018 : Word).toNat / 4 ∧ (0x018 : Word).toNat / 4 < 0x400 ∧
    6 ≤ (0xFFF : Word).toNat / 4 ∧ (0xFFF : Word).toNat / 4 < 0x400 ∧
    0x400 ≤ (0x2000 : Word).toNat / 4 ∧ 0x1000 + 4096 < 4 * ((0x2000 : Word).toNat / 4) + 4 ∧
    0x400 ≤ (0xFFFFFFFF : Word).toNat / 4 ∧ 0x1000 + 4096 < 4 * ((0xFFFFFFFF : Word).toNat / 4) + 4 :=
  ⟨fun off v => ⟨{ State.reset with pending := [.write off v] }, [], rfl, rfl⟩, by decide⟩

/-- The edges in the machine: LEN and the last DMEM word store; RESULT, the last reserved word and the first word above
DMEM do not (R53 to R56). -/
theorem test_hostWrite_edges :
    (hostWrite State.reset 0x017 7).len = 7 ∧ hostWrite State.reset 0x018 7 = State.reset ∧
    hostWrite State.reset 0xFFF 7 = State.reset ∧ hostWrite State.reset 0x2000 7 = State.reset ∧
    (hostWrite State.reset 0x1FFF 0x04030201).dmem.cells = [(4092, 1), (4093, 2), (4094, 3), (4095, 4)] := by
  decide +kernel

/-- A word outside a running LDST's footprint, and the word that a footprint of bytes 2 to 17 cuts. -/
theorem test_witness_DmemWordWrites : (∃ (s : State) (es : List Event), s.pending = .write 0x1FFF 0xA8F64332 :: es ∧
    (0x1FFF : Word).toNat / 4 = 0x400 + 1023 ∧ 4 * 1023 + 4 ≤ s.cfg.dmemSize ∧
    ∀ j < 4, s.guarded (4 * 1023 + j) = false) ∧
    ∃ (s : State) (l : Latch) (es : List Event), s.pending = .write 0x1000 0xA8F64332 :: es ∧
      (0x1000 : Word).toNat / 4 = 0x400 + 0 ∧ 4 * 0 + 4 ≤ s.cfg.dmemSize ∧ s.running = some l ∧
      inFootprint l 1 = false ∧ inFootprint l 2 = true :=
  ⟨⟨{ accepted .ldst State.reset with pending := [.write 0x1FFF 0xA8F64332] }, _, rfl, by decide, by decide,
    by decide +kernel⟩,
    ⟨{ accepted .ldst (loaded 0 [] 2 0 0) with pending := [.write 0x1000 0xA8F64332] }, _, _, rfl, by decide,
      by decide, rfl, by decide +kernel, by decide +kernel⟩⟩

/-- R83: the footprint bytes 2 and 3 of the word are not stored but remembered; bytes 0 and 1 are stored. -/
theorem test_hostWrite_footprint :
    (hostWrite (accepted .ldst (loaded 0 [] 2 0 0)) 0x1000 0x04030201).dmem.cells = [(0, 1), (1, 2)] ∧
    (hostWrite (accepted .ldst (loaded 0 [] 2 0 0)) 0x1000 0x04030201).running.map (·.disturbed) =
      some [3, 2] := by decide +kernel

/-- R83, U4: the destination range is free even where the command fails its range check, up to the end of DMEM. -/
theorem test_unsettled_failed :
    unsettled Config.worked ⟨encode .ecbenc, 0, 4090, 16, [0]⟩ (some .ecbenc) =
      [0, 4090, 4091, 4092, 4093, 4094, 4095] := by decide +kernel

theorem test_witness_HostReadsHaveNoSideEffect : ∃ (s : State) (es : List Event),
    s.pending = .read 0x1000 :: .read 0x1000 :: es ∧ s.busy = false :=
  ⟨{ State.reset with pending := [.read 0x1000, .read 0x1000] }, _, rfl, by decide⟩

theorem test_witness_IvAndCtrHiddenOutsideTheirModes : ∃ s : State, s.busy = true ∧ s.mode ≠ .cbc ∧ s.mode ≠ .ctr :=
  ⟨accepted .cfgcbc (keyed .ecb 0 [] 0 0 16), by decide, by decide, by decide⟩

theorem test_witness_CommandSeesOnlyItsFootprint : ∃ (s : State) (l : Latch), s.running = some l ∧ decode l.cmd = .ok .ldst ∧
    inFootprint l 16 = false :=
  ⟨accepted .ldst State.reset, _, rfl, by decide, by decide +kernel⟩

/-- A command whose destination the host wrote while it ran, and one that also fails its range check. -/
theorem test_witness_DisturbedFootprintIsFree :
    (∃ (s : State) (l : Latch) (es : List Event), s.running = some l ∧ decode l.cmd = .ok .stst ∧
      l.disturbed ≠ [] ∧ s.pending = .engine :: es) ∧
    ∃ (s : State) (l : Latch) (es : List Event), s.running = some l ∧ decode l.cmd = .ok .stst ∧
      l.disturbed ≠ [] ∧ s.pending = .engine :: es ∧ passes .stst s l = false :=
  ⟨⟨{ hostWrite (accepted .stst State.reset) 0x100C 5 with pending := [.engine] },
    ⟨encode .stst, 0, 0, 0, [15, 14, 13, 12]⟩, [], by decide +kernel, by decide, by decide, rfl⟩,
    ⟨{ hostWrite (accepted .stst (loaded 0 [] 0 4090 0)) 0x1FFC 5 with pending := [.engine] },
      ⟨encode .stst, 0, 4090, 0, [4095, 4094, 4093, 4092]⟩, [], by decide +kernel, by decide, by decide, rfl,
      by decide +kernel⟩⟩

theorem test_witness_DutifulHostNeverOverruns : ∃ (s t : State), SafeRun 2 s t ∧ s.undisturbed = true ∧ s.ovr = false :=
  ⟨{ State.reset with pending := [.write 0 (encode .nop), .read 4] }, _,
    ⟨by intro e he; cases he; rfl, _, rfl, ⟨by intro e he; cases he; rfl, _, rfl, rfl⟩⟩, rfl, rfl⟩

theorem test_witness_ResetEventGivesResetState : ∃ (s : State) (es : List Event), s.pending = .reset :: es ∧
    s.busy = true :=
  ⟨{ accepted .ldst State.reset with pending := [.reset] }, _, rfl, by decide⟩

/-- The smallest and the largest DMEM of R10, and values that are not legal. -/
theorem test_witness_ResetMeetsInvariant :
    Config.legal ⟨64, 0x2000⟩ = true ∧ Config.legal ⟨2 ^ 24, 2 ^ 25⟩ = true ∧ Config.legal ⟨4096, 0⟩ = true ∧
    Config.legal ⟨63, 0⟩ = false ∧ Config.legal ⟨2 ^ 24 + 16, 0⟩ = false ∧ Config.legal ⟨4096, 0x1000⟩ = false := by
  decide +kernel

/-- A busy engine with a key, a written DMEM and a touched footprint meets the invariant, and its next event, a host write
into the footprint, gives a next state. -/
theorem test_witness_StepKeepsInvariant : ∃ s t : State, s.Inv ∧ step s = .next t := by
  refine ⟨{ hostWrite (accepted .ecbenc (keyed .ecb 0 (blockBytes plainS1) 0 16 16)) 0x1000 5 with
    pending := [.write 0x1010 7, .engine] }, _, ?_, rfl⟩
  exact {
    legal := by decide +kernel
    keyed := fun _ => rfl
    schedule := fun _ => by decide +kernel
    unkeyed := fun h => absurd h (by decide)
    resultByte := by decide +kernel
    quiet := fun _ => by decide +kernel
    coded := fun h => absurd h (by decide +kernel)
    lengthed := fun h => absurd h (by decide +kernel)
    memoryForm := by decide +kernel
    memoryInside := by decide +kernel
    drawn := by decide +kernel
    latched := by
      intro l hl
      cases hl
      decide +kernel
    disturbed := by
      intro l hl
      cases hl
      decide +kernel }

end Sys2Proof.Tests
end

section
/-! The statements of spec/00_scope.md: no command and no step of the machine stops (R17), and the two conversions of R15
undo each other. -/

namespace Sys2Proof.Machine

/-! No command and no step stops. -/

theorem answer_isNext (i : Instr) (s : State) (l : Latch) : ∃ t, answer i s l = .next t := by
  unfold answer
  split
  · exact ⟨_, rfl⟩
  · exact ⟨_, rfl⟩

theorem exec_isNext {s : State} {l : Latch} (h : s.running = some l) (i : Instr) : ∃ t, exec i s = .next t := by
  rw [exec_eq h]
  exact answer_isNext i s l

theorem engineStep_isNext (s : State) : ∃ t, engineStep s = .next t := by
  cases hr : s.running with
  | none => exact ⟨_, engineStep_idle hr⟩
  | some l =>
    cases hd : decode l.cmd with
    | error e => exact ⟨_, engineStep_illegal hr hd⟩
    | ok i =>
      obtain ⟨t, ht⟩ := exec_isNext hr i
      exact ⟨settle l (some i) t, by rw [engineStep_command hr hd, ht, mapNext_next]⟩

theorem step_isNext (s : State) : ∃ t, step s = .next t := by
  unfold step
  split
  · exact engineStep_isNext s
  · exact engineStep_isNext _
  · exact ⟨_, rfl⟩
  · exact ⟨_, rfl⟩
  · exact ⟨_, rfl⟩

/-! The big-endian conversions. -/

/-- `BE` in the library's terms: base-256 digits, least significant first. -/
theorem bigEndian_eq_ofDigits (bs : List Byte) : bigEndian bs = Nat.ofDigits 256 (bs.reverse.map BitVec.toNat) := by
  induction bs using List.reverseRecOn with
  | nil => rfl
  | append_singleton bs b ih =>
    rw [List.reverse_concat, List.map_cons, Nat.ofDigits_cons, ← ih]
    simp only [bigEndian, List.foldl_append, List.foldl_cons, List.foldl_nil]
    omega

theorem bigEndian_append (as bs : List Byte) :
    bigEndian (as ++ bs) = bigEndian as * 256 ^ bs.length + bigEndian bs := by
  simp only [bigEndian_eq_ofDigits, List.reverse_append, List.map_append, Nat.ofDigits_append, List.length_map,
    List.length_reverse]
  ring

theorem bigEndian_singleton (b : Byte) : bigEndian [b] = b.toNat := by simp [bigEndian]

theorem digits_lt_256 (bs : List Byte) : ∀ d ∈ bs.reverse.map BitVec.toNat, d < 256 := by
  intro d hd
  obtain ⟨b, -, rfl⟩ := List.mem_map.1 hd
  exact b.isLt

theorem bigEndian_lt (bs : List Byte) : bigEndian bs < 256 ^ bs.length := by
  rw [bigEndian_eq_ofDigits]
  simpa using Nat.ofDigits_lt_base_pow_length (by decide) (digits_lt_256 bs)

/-- Byte strings of one length with the same integer are equal. -/
theorem eq_of_bigEndian_eq {as bs : List Byte} (hl : as.length = bs.length) (h : bigEndian as = bigEndian bs) :
    as = bs := by
  rw [bigEndian_eq_ofDigits, bigEndian_eq_ofDigits] at h
  have hd := Nat.ofDigits_inj_of_len_eq (by decide) (by simpa using hl) (digits_lt_256 as) (digits_lt_256 bs) h
  exact List.reverse_injective (List.map_injective_iff.2 (fun _ _ => BitVec.eq_of_toNat_eq) hd)

theorem byteAt_toBE16_toNat (v : Counter) {k : Nat} (h : k < 16) :
    (byteAt (toBE16 v) k).toNat = v.toNat >>> (8 * (15 - k)) % 256 := by
  rw [toBE16, byteAt_blockOf _ h, BitVec.toNat_setWidth, BitVec.toNat_ushiftRight]

/-- The first n bytes of `ToBE16(v)` are the integer of the n highest bytes of v. -/
theorem bigEndian_take_toBE16 (v : Counter) {n : Nat} (h : n ≤ 16) :
    bigEndian ((blockBytes (toBE16 v)).take n) = v.toNat >>> (8 * (16 - n)) := by
  induction n with
  | zero => simp [bigEndian, Nat.shiftRight_eq_div_pow, Nat.div_eq_of_lt v.isLt]
  | succ n ih =>
    have hn : n < (blockBytes (toBE16 v)).length := by rw [blockBytes_length]; omega
    have hbyte : (blockBytes (toBE16 v))[n] = byteAt (toBE16 v) n := by
      rw [← blockBytes_getD, List.getD_eq_getElem _ _ hn]
    have hshift : v.toNat >>> (8 * (16 - n)) = v.toNat >>> (8 * (15 - n)) / 256 := by
      rw [show 8 * (16 - n) = 8 * (15 - n) + 8 by omega, Nat.shiftRight_add, Nat.shiftRight_eq_div_pow _ 8]
    rw [List.take_succ_eq_append_getElem hn, bigEndian_append, bigEndian_singleton, hbyte, ih (by omega),
      byteAt_toBE16_toNat v (by omega), hshift, show 16 - (n + 1) = 15 - n by omega, List.length_singleton]
    omega

theorem bigEndian_toBE16 (v : Counter) : bigEndian (blockBytes (toBE16 v)) = v.toNat := by
  simpa [List.take_of_length_le] using bigEndian_take_toBE16 v (n := 16) le_rfl

theorem blockBytes_injective : Function.Injective blockBytes :=
  Function.LeftInverse.injective blockOfBytes_blockBytes

/-- `ToBE16` of a block's integer is the block: both have that integer, which is below 2^128. -/
theorem toBE16_bigEndian (b : Block) : toBE16 (BitVec.ofNat 128 (bigEndian (blockBytes b))) = b := by
  have hlt : bigEndian (blockBytes b) < 2 ^ 128 := by simpa using bigEndian_lt (blockBytes b)
  apply blockBytes_injective
  apply eq_of_bigEndian_eq (by simp)
  rw [bigEndian_toBE16, BitVec.toNat_ofNat, Nat.mod_eq_of_lt hlt]

/-! The obligations. -/

/-- Settles O11: a running command answers its first failing check's error or its effect (`exec_eq`), and every event of
`step` but the engine's own answers a next state outright. -/
theorem machineNeverStops : Obligations.MachineNeverStops := by
  refine ⟨fun i s hb => ?_, step_isNext⟩
  obtain ⟨l, hl⟩ := Option.isSome_iff_exists.1 hb
  exact exec_isNext hl i

/-- Settles O45: the prefixes of `ToBE16(v)` give v by induction on their length; the other direction follows because
`BE` is injective on strings of one length. -/
theorem counterBytesRoundTrip : Obligations.CounterBytesRoundTrip :=
  ⟨bigEndian_toBE16, toBE16_bigEndian⟩

end Sys2Proof.Machine
end

section
/-! The statements of spec/10_state.md: which registers a command may change and which it may depend on, the host's
register map, and the invariant of the machine's state. -/

namespace Sys2Proof.Machine

/-! What passed checks say. -/

theorem firstFailure_eq_none_iff (i : Instr) (s : State) (l : Latch) :
    firstFailure i s l = none ↔ passes i s l = true := by
  simp [firstFailure, passes]

theorem keyv_of_passes {i : Instr} {s : State} {l : Latch} (h : passes i s l = true) (hi : needsKey i = true) :
    s.keyv = true := by
  cases i <;> simp_all [passes, checks, needsKey]

theorem mode_of_passes {i : Instr} {s : State} {l : Latch} {m : Mode} (h : passes i s l = true)
    (hi : requiredMode i = some m) : s.mode = m := by
  cases i <;> simp_all [passes, checks, requiredMode]

/-- The destination range of a command whose checks pass is inside DMEM. -/
theorem dest_of_passes {i : Instr} {s : State} {l : Latch} (h : passes i s l = true) :
    rangeFails s l.dst.toNat (destLength i l.len.toNat) = false := by
  cases i <;> simp_all [passes, checks, destLength, rangeFails_eq_false_iff]

/-! Which commands' effects change each register. -/

section changes

variable {i : Instr} {s : State} {l : Latch}

theorem effect_rk_ne (h : (effect i s l).rk ≠ s.rk) : i = .keyld := by
  cases i
  case keyld => rfl
  all_goals simp only [effect, storeEffect, dataEffect, ne_eq, not_true_eq_false] at h

theorem effect_keyv_ne (h : (effect i s l).keyv ≠ s.keyv) : i = .keyld ∧ (effect i s l).keyv = true := by
  cases i
  case keyld => exact ⟨rfl, rfl⟩
  all_goals simp only [effect, storeEffect, dataEffect, ne_eq, not_true_eq_false] at h

theorem effect_rk_of_ne (hi : i ≠ .keyld) (s : State) (l : Latch) : (effect i s l).rk = s.rk :=
  of_not_not (mt effect_rk_ne hi)

theorem effect_keyv_of_ne (hi : i ≠ .keyld) (s : State) (l : Latch) : (effect i s l).keyv = s.keyv :=
  of_not_not (mt effect_keyv_ne fun h => hi h.1)

theorem effect_mode_ne (h : (effect i s l).mode ≠ s.mode) :
    i = .keyld ∨ i = .cfgecb ∨ i = .cfgcbc ∨ i = .cfgctr := by
  cases i
  case keyld | cfgecb | cfgcbc | cfgctr => simp
  all_goals simp only [effect, storeEffect, dataEffect, ne_eq, not_true_eq_false] at h

theorem effect_state_ne (h : (effect i s l).state ≠ s.state) :
    i = .ldst ∨ i = .subb ∨ i = .isubb ∨ i = .shr ∨ i = .ishr ∨ i = .mixc ∨ i = .imixc ∨ (∃ r, i = .ark r) ∨
      i = .encb ∨ i = .decb := by
  cases i
  case ldst | subb | isubb | shr | ishr | mixc | imixc | ark | encb | decb => simp
  all_goals simp only [effect, storeEffect, dataEffect, ne_eq, not_true_eq_false] at h

theorem effect_iv_ne (h : (effect i s l).iv ≠ s.iv) : i = .cfgcbc ∨ i = .setiv := by
  cases i
  case cfgcbc | setiv => simp
  all_goals simp only [effect, storeEffect, dataEffect, ne_eq, not_true_eq_false] at h

theorem effect_ctr_ne (h : (effect i s l).ctr ≠ s.ctr) : i = .cfgctr ∨ i = .ctrenc ∨ i = .ctrdec := by
  cases i
  case cfgctr | ctrenc | ctrdec => simp
  all_goals simp only [effect, storeEffect, dataEffect, ne_eq, not_true_eq_false] at h

theorem effect_result_ne (h : (effect i s l).result ≠ s.result) : ∃ a, i = .sbox a ∨ i = .isbox a := by
  cases i
  case sbox a => exact ⟨a, .inl rfl⟩
  case isbox a => exact ⟨a, .inr rfl⟩
  all_goals simp only [effect, storeEffect, dataEffect, ne_eq, not_true_eq_false] at h

/-- A command whose checks pass stores one string, which fills its destination range. -/
theorem effect_dmem (h : passes i s l = true) :
    ∃ bs : List Byte, bs.length = destLength i l.len.toNat ∧
      (effect i s l).dmem = s.dmem.writeBytes l.dst.toNat bs := by
  have hsrc := s.dmem.readBytes_length l.src.toNat l.len.toNat
  cases i
  case rdrk | stst | getiv | rdctr => exact ⟨_, blockBytes_length _, rfl⟩
  case ecbenc | ecbdec | cbcenc | cbcdec =>
    have hlen : l.len.toNat % 16 = 0 := by simp_all [passes, checks]
    rw [← hsrc] at hlen
    refine ⟨_, ?_, rfl⟩
    simp [destLength, ecbEncrypt_length _ hlen, ecbDecrypt_length _ hlen, cbcEncrypt_length _ _ hlen,
      cbcDecrypt_length _ _ hlen]
  case ctrenc | ctrdec => exact ⟨_, (ctrCrypt_length _ _ _).trans hsrc, rfl⟩
  all_goals exact ⟨[], rfl, rfl⟩

end changes

/-- No byte outside the destination range changes. -/
theorem effect_read_ne {i : Instr} {s : State} {l : Latch} (h : passes i s l = true) {x : Nat}
    (hx : (effect i s l).dmem.read x ≠ s.dmem.read x) :
    l.dst.toNat ≤ x ∧ x < l.dst.toNat + destLength i l.len.toNat := by
  obtain ⟨bs, hlen, hdmem⟩ := effect_dmem h
  rw [hdmem] at hx
  by_contra hout
  exact hx (Memory.read_writeBytes_outside _ _ (by omega))

/-! A command run from a changed state. -/

/-- Two states whose answers for a running command differ by `f` give runs that differ by `f`. -/
theorem exec_eq_mapNext {i : Instr} {s s' : State} {l : Latch} {f : State → State} (hl : s.running = some l)
    (hl' : s'.running = some l) (hcheck : firstFailure i s' l = firstFailure i s l)
    (hfail : ∀ e, s'.failed e = f (s.failed e))
    (heffect : passes i s l = true → (effect i s' l).complete = f (effect i s l).complete) :
    exec i s' = mapNext f (exec i s) := by
  rw [exec_eq hl, exec_eq hl', answer, answer, hcheck]
  cases hf : firstFailure i s l with
  | some e => exact congrArg Host.Outcome.next (hfail e)
  | none => exact congrArg Host.Outcome.next (heffect ((firstFailure_eq_none_iff i s l).1 hf))

theorem checks_operands (i : Instr) (s : State) (l : Latch) (a b c : Word) :
    checks i { s with src := a, dst := b, len := c } l = checks i s l := by
  cases i <;> rfl

theorem effect_operands (i : Instr) (s : State) (l : Latch) (a b c : Word) :
    effect i { s with src := a, dst := b, len := c } l = { effect i s l with src := a, dst := b, len := c } := by
  cases i <;> simp only [effect, storeEffect, dataEffect]

theorem checks_iv (i : Instr) (s : State) (l : Latch) (v : Block) : checks i { s with iv := v } l = checks i s l := by
  cases i <;> rfl

theorem checks_ctr (i : Instr) (s : State) (l : Latch) (c : Counter) :
    checks i { s with ctr := c } l = checks i s l := by
  cases i <;> rfl

/-- Outside mode CBC a command's effect enters the mode with a new IV, or carries IV along unread. -/
theorem effect_iv_of_not_cbc {i : Instr} {s : State} {l : Latch} (hp : passes i s l = true) (hs : s.mode ≠ .cbc)
    (v : Block) :
    (effect i { s with iv := v } l).complete =
      if (effect i s l).complete.mode = .cbc then (effect i s l).complete
      else { (effect i s l).complete with iv := v } := by
  cases i
  case keyld | cfgecb | cfgcbc | cfgctr => rfl
  case setiv | getiv | cbcenc | cbcdec => exact absurd (mode_of_passes hp rfl) hs
  all_goals simp only [effect, storeEffect, dataEffect, hs, if_false, State.complete]

/-- Outside mode CTR a command's effect enters the mode with a new CTR, or carries CTR along unread. -/
theorem effect_ctr_of_not_ctr {i : Instr} {s : State} {l : Latch} (hp : passes i s l = true) (hs : s.mode ≠ .ctr)
    (c : Counter) :
    (effect i { s with ctr := c } l).complete =
      if (effect i s l).complete.mode = .ctr then (effect i s l).complete
      else { (effect i s l).complete with ctr := c } := by
  cases i
  case keyld | cfgecb | cfgcbc | cfgctr => rfl
  case rdctr | ctrenc | ctrdec => exact absurd (mode_of_passes hp rfl) hs
  all_goals simp only [effect, storeEffect, dataEffect, hs, if_false, State.complete]

/-! The register map (R49, R55). -/

theorem regionOf_dmem {c : Config} {off : Word} {k : Nat} (h : off.toNat / 4 = 0x400 + k)
    (hk : 4 * k + 4 ≤ c.dmemSize) : regionOf c off = .dmem (4 * k) := by
  rw [regionOf_eq, h]
  repeat rw [if_neg (by omega)]
  rw [if_pos (by omega)]
  exact congrArg Region.dmem (by omega)

theorem regionOf_reserved {c : Config} {off : Word} (h : (7 ≤ off.toNat / 4 ∧ off.toNat / 4 < 0x400) ∨
    (0x400 ≤ off.toNat / 4 ∧ 0x1000 + c.dmemSize < 4 * (off.toNat / 4) + 4)) : regionOf c off = .reserved := by
  rw [regionOf_eq]
  repeat rw [if_neg (by omega)]

/-! STATUS, bit by bit (R50, R57). -/

theorem status_getLsbD (s : State) {j : Nat} (hj : j < 32) :
    s.status.getLsbD j =
      (decide (j = 0) && s.busy || decide (j = 1) && s.err || decide (j = 2) && s.ovr || decide (j = 3) && s.keyv ||
        decide (4 ≤ j) && s.mode.code.getLsbD (j - 4) || decide (8 ≤ j) && s.errcode.getLsbD (j - 8)) := by
  interval_cases j <;> simp [State.status, bitWord]

theorem busyStatus_getLsbD (s : State) (free : Word) {j : Nat} (hj : j < 32) :
    (s.busyStatus free).getLsbD j =
      (free.getLsbD j && freeStatusBits.getLsbD j || decide (j = 0) || decide (j = 2) && s.ovr) := by
  interval_cases j <;> simp [State.busyStatus, freeStatusBits, bitWord]

theorem extractLsb'_eq {w : Word} {lo n : Nat} {x : BitVec n} (h : ∀ i < n, w.getLsbD (lo + i) = x.getLsbD i) :
    w.extractLsb' lo n = x := by
  apply BitVec.eq_of_getLsbD_eq
  intro i hi
  simpa [hi] using h i hi

theorem status_extractLsb'_reserved_low (s : State) : s.status.extractLsb' 6 2 = 0 :=
  extractLsb'_eq fun i hi => by
    rw [status_getLsbD s (by omega)]
    interval_cases i <;> simp

theorem status_extractLsb'_mode (s : State) : s.status.extractLsb' 4 2 = s.mode.code :=
  extractLsb'_eq fun i hi => by
    rw [status_getLsbD s (by omega)]
    interval_cases i <;> simp

theorem status_extractLsb'_errcode (s : State) : s.status.extractLsb' 8 4 = s.errcode :=
  extractLsb'_eq fun i hi => by
    rw [status_getLsbD s (by omega)]
    interval_cases i <;> simp

theorem status_extractLsb'_reserved_high (s : State) : s.status.extractLsb' 12 20 = 0 :=
  extractLsb'_eq fun i hi => by
    rw [status_getLsbD s (by omega)]
    interval_cases i <;> simp

theorem busyStatus_extractLsb'_reserved_low (s : State) (free : Word) : (s.busyStatus free).extractLsb' 6 2 = 0 :=
  extractLsb'_eq fun i hi => by
    rw [busyStatus_getLsbD s _ (by omega)]
    interval_cases i <;> simp [freeStatusBits]

theorem busyStatus_extractLsb'_reserved_high (s : State) (free : Word) : (s.busyStatus free).extractLsb' 12 20 = 0 :=
  extractLsb'_eq fun i hi => by
    rw [busyStatus_getLsbD s _ (by omega)]
    interval_cases i <;> simp [freeStatusBits]

theorem busyStatus_free_fields (s : State) (free : Word) : s.busyStatus free &&& 0xF3A = free &&& 0xF3A := by
  apply BitVec.eq_of_getLsbD_eq
  intro i hi
  rw [BitVec.getLsbD_and, BitVec.getLsbD_and, busyStatus_getLsbD s _ hi]
  interval_cases i <;> simp [freeStatusBits]

/-! Host reads. -/

theorem step_read {s : State} {off : Word} {es : List Event} (h : s.pending = .read off :: es) :
    step s = .next { s with pending := es, reads := readValue s off :: s.reads, draws := s.draws + 1 } := by
  unfold step
  rw [h]
  rfl

/-- A word with no guarded byte (R83). -/
theorem wordGuarded_eq_false_iff (s : State) (a : Nat) :
    s.wordGuarded a = false ↔ ∀ j < 4, s.guarded (a + j) = false := by
  constructor
  · intro h j hj
    simp only [State.wordGuarded, Bool.or_eq_false_iff] at h
    interval_cases j <;> simp [h]
  · intro h
    have h0 : s.guarded a = false := h 0 (by decide)
    simp [State.wordGuarded, h0, h 1 (by decide), h 2 (by decide), h 3 (by decide)]

theorem guarded_idle {s : State} (h : s.busy = false) (a : Nat) : s.guarded a = false := by
  simp [State.guarded, (busy_eq_false_iff s).1 h]

section reads

variable {s : State} {off : Word} {k : Nat}

theorem readValue_dmem_free (h : off.toNat / 4 = 0x400 + k) (hk : 4 * k + 4 ≤ s.cfg.dmemSize)
    (hg : ∀ j < 4, s.guarded (4 * k + j) = false) {j : Nat} (hj : j < 4) :
    (readValue s off).extractLsb' (8 * j) 8 = s.dmem.read (4 * k + j) := by
  have hg := (wordGuarded_eq_false_iff s (4 * k)).2 hg
  simp only [readValue, regionOf_dmem h hk, hg, Bool.false_eq_true, if_false]
  exact Memory.readWord_lane _ _ hj

theorem readValue_dmem_guarded (h : off.toNat / 4 = 0x400 + k) (hk : 4 * k + 4 ≤ s.cfg.dmemSize)
    (hg : ∃ j < 4, s.guarded (4 * k + j) = true) : readValue s off = Config.freeWord s.draws := by
  have hw : s.wordGuarded (4 * k) = true := by
    obtain ⟨j, hj, hg⟩ := hg
    exact eq_true_of_ne_false fun hw => by simp [(wordGuarded_eq_false_iff _ _).1 hw j hj] at hg
  simp only [readValue, regionOf_dmem h hk, hw, if_true]

theorem readValue_reserved (h : (7 ≤ off.toNat / 4 ∧ off.toNat / 4 < 0x400) ∨
    (0x400 ≤ off.toNat / 4 ∧ 0x1000 + s.cfg.dmemSize < 4 * (off.toNat / 4) + 4)) : readValue s off = 0 := by
  simp only [readValue, regionOf_reserved h]

theorem readValue_busy_status (hb : s.busy = true) (h : off.toNat / 4 = 1) :
    readValue s off = s.busyStatus (Config.freeWord s.draws) := by
  simp [readValue, regionOf_eq, h, hb]

end reads

/-! Host writes. -/

theorem step_write {s : State} {off v : Word} {es : List Event} (h : s.pending = .write off v :: es) :
    step s = .next (hostWrite { s with pending := es } off v) := by
  unfold step
  rw [h]

/-- A word is its four byte lanes (R56). -/
theorem word_ext_lanes {v w : Word} (h : ∀ j < 4, v.extractLsb' (8 * j) 8 = w.extractLsb' (8 * j) 8) : v = w := by
  apply BitVec.eq_of_getLsbD_eq
  intro i hi
  have hbit := congrArg (·.getLsbD (i % 8)) (h (i / 8) (by omega))
  simpa [show i % 8 < 8 by omega, show 8 * (i / 8) + i % 8 = i by omega] using hbit

theorem guarded_withDmem (s : State) (m : Memory) (a : Nat) : { s with dmem := m }.guarded a = s.guarded a := rfl

/-- A host write to a word that no footprint touches stores its four bytes in order. -/
theorem hostWriteWord_free {s : State} {a : Nat} (h : ∀ j < 4, s.guarded (a + j) = false) (v : Word) :
    hostWriteWord s a v = { s with dmem := s.dmem.writeBytes a ((List.range 4).map (laneByte v)) } := by
  have h0 : s.guarded (a + 0) = false := h 0 (by decide)
  rw [hostWriteWord, show List.range 4 = [0, 1, 2, 3] from rfl]
  simp only [List.foldl_cons, List.foldl_nil, hostWriteByte, guarded_withDmem, h0, h 1 (by decide), h 2 (by decide),
    h 3 (by decide), Bool.false_eq_true, if_false]
  rfl

/-- The first n bytes of a host write while a command runs (R83). -/
theorem foldl_hostWriteByte_running {s : State} {l : Latch} (hl : s.running = some l) (a : Nat) (v : Word) (n : Nat) :
    ∃ m d, (List.range n).foldl (fun s j => hostWriteByte s (a + j) (laneByte v j)) s =
        { s with dmem := m, running := some { l with disturbed := d } } ∧
      (∀ j < n, m.read (a + j) = if inFootprint l (a + j) = true then s.dmem.read (a + j) else laneByte v j) ∧
      (∀ x, x < a ∨ a + n ≤ x → m.read x = s.dmem.read x) ∧
      ∀ x, x ∈ d ↔ x ∈ l.disturbed ∨ (a ≤ x ∧ x < a + n ∧ inFootprint l x = true) := by
  induction n with
  | zero => exact ⟨s.dmem, l.disturbed, by rw [← hl]; rfl, nofun, fun _ _ => rfl, fun x => by simp; omega⟩
  | succ n ih =>
    obtain ⟨m, d, hfold, hin, hout, hd⟩ := ih
    obtain ⟨m', d', hbyte, hself, hothers, hd'⟩ :=
      hostWriteByte_running (s := { s with dmem := m, running := some { l with disturbed := d } }) rfl (a + n)
        (laneByte v n)
    have hfoot : ∀ x, inFootprint { l with disturbed := d } x = inFootprint l x := fun _ => rfl
    simp only [hfoot] at hself hothers hd'
    refine ⟨m', d', ?_, ?_, ?_, ?_⟩
    · rw [List.range_succ, List.foldl_append, hfold]
      exact hbyte
    · intro j hj
      obtain hj | rfl := Nat.lt_succ_iff_lt_or_eq.1 hj
      · rw [hothers _ (by omega)]
        exact hin j hj
      · rw [hself, hout _ (by omega)]
    · intro x hx
      rw [hothers x (by omega), hout x (by omega)]
    · intro x
      rw [hd', hd, or_assoc]
      refine or_congr_right ?_
      cases inFootprint l x
      · simp
      · simp only [and_true]
        omega

/-! RK[0] is the key (R202). -/

/-- The loop of R201 only adds words in front of the key's four, the latest word first. -/
theorem scheduleWords_suffix (k : Block) (n : Nat) : scheduleWords k 0 <:+ scheduleWords k n := by
  induction n with
  | zero => exact List.suffix_refl _
  | succ n ih => exact ih.trans (List.suffix_cons _ _)

theorem keyWords_getD (k : Block) {j : Nat} (hj : j < 4) :
    (keyWords k).getD j Column.zero = columnOf fun i => byteAt k (4 * j + i) := by
  obtain ⟨later, hlater⟩ := List.reverse_prefix.2 (scheduleWords_suffix k 40)
  rw [keyWords, ← hlater]
  interval_cases j <;> rfl

theorem colByte_columnOf (f : Nat → Byte) {i : Nat} (hi : i < 4) : colByte (columnOf f) i = f i := by
  interval_cases i <;> rfl

theorem roundKey_zero (k : Block) : roundKey k 0 = k := by
  apply block_ext
  intro i hi
  rw [roundKey, joinWords, byteAt_blockOf _ hi, show 4 * 0 + i / 4 = i / 4 by omega, keyWords_getD k (by omega),
    colByte_columnOf _ (by omega), show 4 * (i / 4) + i % 4 = i by omega]

theorem roundKeyAt_expandKey_zero (k : Block) : roundKeyAt (expandKey k) 0 = k := roundKey_zero k

/-! The invariant and a command's end. -/

theorem code_bounds (e : CmdError) : 1 ≤ e.code.toNat ∧ e.code.toNat ≤ 8 := by
  cases e <;> simp [CmdError.code]

/-- Only the codes 1 to 3 carry a length (R325). -/
theorem code_le_of_length {e : CmdError} (h : e.length ≠ 0) : e.code.toNat ≤ 3 := by
  cases e
  case invalidKeyLength | invalidIvLength | invalidInputLength => simp [CmdError.code]
  all_goals exact absurd rfl h

theorem failed_inv {s : State} (h : s.Inv) (e : CmdError) : (s.failed e).Inv :=
  { h with
    quiet := nofun
    coded := fun _ => code_bounds e
    lengthed := code_le_of_length
    latched := nofun
    disturbed := nofun }

theorem effect_keyed {i : Instr} {s : State} {l : Latch} (h : s.Inv) (hp : passes i s l = true)
    (hm : (effect i s l).mode ≠ .none) : (effect i s l).keyv = true := by
  cases i
  case keyld => rfl
  case cfgecb | cfgcbc | cfgctr => exact (keyv_of_passes hp rfl : s.keyv = true)
  all_goals
    simp only [effect, storeEffect, dataEffect] at hm ⊢
    exact h.keyed hm

theorem effect_schedule {i : Instr} {s : State} {l : Latch} (h : s.Inv) (hk : (effect i s l).keyv = true) :
    (effect i s l).rk = expandKey (roundKeyAt (effect i s l).rk 0) := by
  by_cases hi : i = .keyld
  · subst hi
    simp only [effect, roundKeyAt_expandKey_zero]
  · rw [effect_keyv_of_ne hi] at hk
    rw [effect_rk_of_ne hi]
    exact h.schedule hk

theorem effect_unkeyed {i : Instr} {s : State} {l : Latch} (h : s.Inv) (hk : (effect i s l).keyv = false) :
    (effect i s l).rk = Schedule.zero := by
  have hi : i ≠ .keyld := by
    rintro rfl
    cases hk
  rw [effect_keyv_of_ne hi] at hk
  rw [effect_rk_of_ne hi]
  exact h.unkeyed hk

theorem byte_setWidth_lt (b : Byte) : (b.setWidth 32).toNat < 256 := by
  rw [BitVec.toNat_setWidth_of_le (by decide)]
  exact b.isLt

theorem effect_resultByte {i : Instr} {s : State} {l : Latch} (h : s.Inv) : (effect i s l).result.toNat < 256 := by
  by_cases hr : (effect i s l).result = s.result
  · exact hr ▸ h.resultByte
  · obtain ⟨a, rfl | rfl⟩ := effect_result_ne hr
    · exact byte_setWidth_lt _
    · exact byte_setWidth_lt _

theorem completed_inv {i : Instr} {s : State} {l : Latch} (h : s.Inv) (hp : passes i s l = true) :
    (effect i s l).complete.Inv := by
  obtain ⟨bs, hlen, hdmem⟩ := effect_dmem hp
  have hinside : bs = [] ∨ l.dst.toNat + bs.length ≤ s.cfg.dmemSize := by
    rw [← List.length_eq_zero_iff, hlen]
    exact (rangeFails_eq_false_iff ..).1 (dest_of_passes hp)
  exact {
    legal := by simpa using h.legal
    keyed := effect_keyed h hp
    schedule := effect_schedule h
    unkeyed := effect_unkeyed h
    resultByte := effect_resultByte h
    quiet := by simpa using h.quiet
    coded := by simpa using h.coded
    lengthed := by simpa using h.lengthed
    memoryForm := by simpa [hdmem] using Memory.writeBytes_wf h.memoryForm _ bs
    memoryInside := by simpa [hdmem] using Memory.cells_writeBytes h.memoryInside hinside
    drawn := by simpa [hdmem] using h.drawn
    latched := nofun
    disturbed := nofun }

/-- Every command ends in a state that meets the invariant. -/
theorem exec_inv {i : Instr} {s t : State} (h : s.Inv) (ht : exec i s = .next t) : t.Inv := by
  obtain ⟨l, -, ⟨e, -, rfl⟩ | ⟨hf, rfl⟩⟩ := exec_next ht
  · exact failed_inv h e
  · exact completed_inv h ((firstFailure_eq_none_iff i s l).1 hf)

/-- Bytes inside DMEM drawn anew keep the invariant. -/
theorem settle_inv {t : State} (h : t.Inv) {l : Latch} {i : Option Instr}
    (hd : ∀ a ∈ l.disturbed, a < t.cfg.dmemSize) : (settle l i t).Inv := by
  have hinside : ∀ a ∈ unsettled t.cfg l i, a < t.cfg.dmemSize := by
    cases i with
    | none => exact hd
    | some i =>
      intro a ha
      rcases List.mem_append.1 ha with ha | ha
      · exact hd a ha
      · exact ((mem_destAddresses _ _ _ _).1 ha).1
  unfold settle
  split
  · exact h
  · exact { h with
      memoryForm := Memory.scramble_wf h.memoryForm _ _
      memoryInside := Memory.cells_scramble h.memoryInside hinside
      drawn := by simpa using Nat.lt_succ_of_lt h.drawn }

theorem exec_cfg {i : Instr} {s t : State} (ht : exec i s = .next t) : t.cfg = s.cfg := by
  obtain ⟨l, -, ⟨e, -, rfl⟩ | ⟨-, rfl⟩⟩ := exec_next ht <;> simp

theorem engineStep_inv {s t : State} (h : s.Inv) (ht : engineStep s = .next t) : t.Inv := by
  cases hl : s.running with
  | none =>
    rw [engineStep_idle hl] at ht
    cases ht
    exact h
  | some l =>
    have hd := fun a ha => ((h.disturbed l hl).2 a ha).2
    cases hi : decode l.cmd with
    | error e =>
      rw [engineStep_illegal hl hi] at ht
      cases ht
      exact settle_inv (failed_inv h _) hd
    | ok i =>
      obtain ⟨u, hu⟩ := exec_isNext hl i
      rw [engineStep_command hl hi, hu, mapNext_next] at ht
      cases ht
      exact settle_inv (exec_inv h hu) (exec_cfg hu ▸ hd)

/-! The invariant and the host's events. -/

theorem accept_inv {s : State} (h : s.Inv) (w : Word) : (accept s w).Inv :=
  { h with
    quiet := fun _ => ⟨rfl, rfl⟩
    coded := nofun
    lengthed := fun hl => absurd rfl hl
    latched := by
      rintro l ⟨⟩
      exact ⟨rfl, rfl⟩
    disturbed := by
      rintro l ⟨⟩
      exact ⟨List.nodup_nil, nofun⟩ }

theorem inFootprint_disturb (l : Latch) (a x : Nat) : inFootprint (l.disturb a) x = inFootprint l x := by
  unfold Latch.disturb
  split <;> rfl

theorem disturb_cmd (l : Latch) (a : Nat) : (l.disturb a).cmd = l.cmd := by
  unfold Latch.disturb
  split <;> rfl

theorem disturb_nodup {l : Latch} (h : l.disturbed.Nodup) (a : Nat) : (l.disturb a).disturbed.Nodup := by
  unfold Latch.disturb
  split
  · exact h
  · exact List.nodup_cons.2 ⟨by simp_all, h⟩

theorem mem_disturb {l : Latch} {a x : Nat} (h : x ∈ (l.disturb a).disturbed) : x = a ∨ x ∈ l.disturbed := by
  unfold Latch.disturb at h
  split at h
  · exact .inr h
  · exact List.mem_cons.1 h

theorem hostWriteByte_inv {s : State} (h : s.Inv) {a : Nat} (ha : a < s.cfg.dmemSize) (b : Byte) :
    (hostWriteByte s a b).Inv := by
  unfold hostWriteByte
  split
  · rename_i hg
    exact { h with
      latched := by
        intro l' hl'
        obtain ⟨l, hl, rfl⟩ := Option.map_eq_some_iff.1 hl'
        rw [disturb_cmd]
        exact h.latched l hl
      disturbed := by
        intro l' hl'
        obtain ⟨l, hl, rfl⟩ := Option.map_eq_some_iff.1 hl'
        obtain ⟨hnodup, hin⟩ := h.disturbed l hl
        refine ⟨disturb_nodup hnodup a, fun x hx => ?_⟩
        rw [inFootprint_disturb]
        rcases mem_disturb hx with rfl | hx
        · exact ⟨by simpa [State.guarded, hl] using hg, ha⟩
        · exact hin x hx }
  · exact { h with
      memoryForm := Memory.write_wf h.memoryForm a b
      memoryInside := Memory.cells_write h.memoryInside ha }

theorem hostWriteByte_cfg (s : State) (a : Nat) (b : Byte) : (hostWriteByte s a b).cfg = s.cfg := by
  unfold hostWriteByte
  split <;> rfl

theorem hostWriteWord_inv {s : State} (h : s.Inv) {a : Nat} (ha : a + 4 ≤ s.cfg.dmemSize) (v : Word) :
    (hostWriteWord s a v).Inv := by
  have hbytes := List.foldlRecOn (List.range 4) (fun s j => hostWriteByte s (a + j) (laneByte v j))
    (motive := fun t => t.Inv ∧ a + 4 ≤ t.cfg.dmemSize) ⟨h, ha⟩ fun t ht j hj => by
      have hj := List.mem_range.1 hj
      exact ⟨hostWriteByte_inv ht.1 (by omega) _, by simpa [hostWriteByte_cfg] using ht.2⟩
  exact hbytes.1

theorem regionOf_dmem_inside {c : Config} {off : Word} {a : Nat} (h : regionOf c off = .dmem a) :
    a + 4 ≤ c.dmemSize := by
  rw [regionOf_eq] at h
  split_ifs at h
  have ha := Region.dmem.inj h
  omega

theorem hostWrite_inv {s : State} (h : s.Inv) (off v : Word) : (hostWrite s off v).Inv := by
  unfold hostWrite
  cases hr : regionOf s.cfg off with
  | cmd =>
    simp only
    split
    · exact { h with }
    · exact accept_inv h v
  | status =>
    simp only
    split
    · exact { h with }
    · exact h
  | src | dst | len => exact { h with }
  | errlen | result | reserved => exact h
  | dmem a => exact hostWriteWord_inv h (regionOf_dmem_inside hr) v

theorem hostRead_inv {s : State} (h : s.Inv) (off : Word) : (hostRead s off).Inv :=
  { h with drawn := Nat.lt_succ_of_lt h.drawn }

theorem resetEvent_inv {s : State} (h : s.Inv) : (resetEvent s).Inv where
  legal := h.legal
  keyed := fun hm => absurd rfl hm
  schedule := nofun
  unkeyed := fun _ => rfl
  resultByte := by simp
  quiet := fun _ => ⟨rfl, rfl⟩
  coded := nofun
  lengthed := fun hl => absurd rfl hl
  memoryForm := List.Pairwise.nil
  memoryInside := nofun
  drawn := Nat.lt_succ_self _
  latched := nofun
  disturbed := nofun

/-- The events still to come are not the machine's. -/
theorem withPending_inv {s : State} (h : s.Inv) (es : List Event) : { s with pending := es }.Inv :=
  { h with }

/-! The obligations. -/

/-- Settles O59: the engine's step ends in a failed or a completed command, whose destination bytes are inside DMEM, and
each host event changes its own fields only. -/
theorem stepKeepsInvariant : Obligations.StepKeepsInvariant := by
  intro s t h ht
  unfold step at ht
  split at ht
  · exact engineStep_inv h ht
  · exact engineStep_inv (withPending_inv h _) ht
  · cases ht
    exact hostWrite_inv (withPending_inv h _) _ _
  · cases ht
    exact hostRead_inv (withPending_inv h _) _
  · cases ht
    exact resetEvent_inv (withPending_inv h _)

/-- Settles O18: a failed command keeps every register, and a completed one changes what its effect changes. -/
theorem onlyNamedCommandsWriteEachRegister : Obligations.OnlyNamedCommandsWriteEachRegister := by
  intro i s t h
  obtain ⟨l, hl, ⟨e, -, rfl⟩ | ⟨hf, rfl⟩⟩ := exec_next h
  · simp
  · have hp := (firstFailure_eq_none_iff i s l).1 hf
    refine ⟨effect_rk_ne, effect_keyv_ne, effect_mode_ne, effect_state_ne, effect_iv_ne, effect_ctr_ne,
      effect_result_ne, ?_⟩
    simp only [complete_src, effect_src, complete_dst, effect_dst, complete_len, effect_len, complete_cmdr, effect_cmdr,
      complete_ovr, effect_ovr, complete_cfg, effect_cfg, complete_pending, effect_pending, complete_reads,
      effect_reads, complete_draws, effect_draws, complete_running, true_and]
    exact fun x hx => ⟨l, hl, effect_read_ne hp hx⟩

/-- Settles O47: the register map by word number; an idle engine guards no DMEM word. -/
theorem idleReadsFollowRegisterMap : Obligations.IdleReadsFollowRegisterMap := by
  intro s off es hb hp
  refine ⟨readValue s off, step_read hp, ?_, ?_, ?_, ?_, ?_, ?_, ?_, ?_, readValue_reserved⟩
  case refine_8 => exact fun k h hk j hj => readValue_dmem_free h hk (fun _ _ => guarded_idle hb _) hj
  all_goals
    intro h
    simp [readValue, regionOf_eq, h, hb]

/-- Settles O48: the register map by word number, STATUS bit by bit, and a DMEM word by its guarded bytes. -/
theorem busyReadsThatAreSpecified : Obligations.BusyReadsThatAreSpecified := by
  intro s off es hb hp
  refine ⟨readValue s off, step_read hp, fun h => ?_, fun h => by simp [readValue, regionOf_eq, h],
    fun h => by simp [readValue, regionOf_eq, h], fun h => by simp [readValue, regionOf_eq, h],
    fun k h hk hg j hj => readValue_dmem_free h hk hg hj, readValue_reserved, ?_, fun h => ?_,
    fun k h hk hg => readValue_dmem_guarded h hk hg⟩
  · rw [readValue_busy_status hb h]
    exact ⟨(busyStatus_getLsbD s _ (by decide)).trans (by simp),
      (busyStatus_getLsbD s _ (by decide)).trans (by simp [freeStatusBits]), busyStatus_extractLsb'_reserved_low s _,
      busyStatus_extractLsb'_reserved_high s _⟩
  · rintro (h | h | h) <;> simp [readValue, regionOf_eq, h, hb]
  · rw [readValue_busy_status hb h]
    exact busyStatus_free_fields s _

/-- Settles O50: an unguarded word is a stored string of four bytes; while a command runs,
by induction on the bytes written. -/
theorem dmemWordWrites : Obligations.DmemWordWrites := by
  intro s off v k es hp hoff hk
  have hwrite : hostWrite { s with pending := es } off v = hostWriteWord { s with pending := es } (4 * k) v := by
    simp only [hostWrite, regionOf_dmem hoff hk]
  rw [step_write hp, hwrite]
  constructor
  · intro hg
    have hlen : ((List.range 4).map (laneByte v)).length = 4 := rfl
    have hbytes : ∀ j < 4, (s.dmem.writeBytes (4 * k) ((List.range 4).map (laneByte v))).read (4 * k + j) =
        v.extractLsb' (8 * j) 8 := fun j hj => by
      rw [Memory.read_writeBytes_inside _ _ _ (by rwa [hlen])]
      simp [laneByte]
    have hstore := hostWriteWord_free (s := { s with pending := es }) hg v
    refine ⟨_, congrArg Host.Outcome.next hstore, hbytes,
      fun x hx => Memory.read_writeBytes_outside _ _ (by rwa [hlen]), word_ext_lanes fun j hj => ?_⟩
    rw [Memory.readWord_lane _ _ hj]
    exact hbytes j hj
  · intro l hl
    obtain ⟨m, d, hfold, hframe⟩ := foldl_hostWriteByte_running (s := { s with pending := es }) hl (4 * k) v 4
    exact ⟨m, d, congrArg Host.Outcome.next hfold, hframe⟩

/-- Settles O52: neither the checks nor the effect of a command read SRC, DST or LEN; both take the latched copies. -/
theorem latchedOperandsIsolateCommand : Obligations.LatchedOperandsIsolateCommand := by
  intro i s a b c hb
  obtain ⟨l, hl⟩ := (busy_eq_true_iff s).1 hb
  exact exec_eq_mapNext hl hl (by rw [firstFailure, checks_operands, firstFailure]) (fun _ => rfl)
    fun _ => by rw [effect_operands]; rfl

/-- Settles O53: a command that passes its checks outside the mode either enters the mode, with a new value of the
register, or does not touch the register. -/
theorem ivAndCtrHiddenOutsideTheirModes : Obligations.IvAndCtrHiddenOutsideTheirModes := by
  intro i s hb
  obtain ⟨l, hl⟩ := (busy_eq_true_iff s).1 hb
  constructor
  · exact fun hs v => exec_eq_mapNext hl hl (by rw [firstFailure, checks_iv, firstFailure]) (fun _ => (if_neg hs).symm)
      fun hp => effect_iv_of_not_cbc hp hs v
  · exact fun hs c => exec_eq_mapNext hl hl (by rw [firstFailure, checks_ctr, firstFailure]) (fun _ => (if_neg hs).symm)
      fun hp => effect_ctr_of_not_ctr hp hs c

/-- Settles O8: the offsets 0 to 3 are CMD, where a write is an acceptance or sets OVR. -/
theorem cmdWriteAcceptsOrOverruns : Obligations.CmdWriteAcceptsOrOverruns := by
  intro s off w es hp hoff
  have hr : regionOf s.cfg off = .cmd := by simp [regionOf_eq, hoff]
  rw [step_write hp]
  constructor
  · intro hb
    have hb : ({ s with pending := es } : State).busy = false := hb
    simp only [hostWrite, hr, hb]
    rfl
  · intro hb
    have hb : ({ s with pending := es } : State).busy = true := hb
    simp only [hostWrite, hr, hb]
    rfl

/-- Settles O46: every bit of STATUS, read off its expression (`status_getLsbD`). -/
theorem statusFields : Obligations.StatusFields := by
  intro s
  have hmode := status_extractLsb'_mode s
  exact ⟨(status_getLsbD s (by decide)).trans (by simp), (status_getLsbD s (by decide)).trans (by simp),
    (status_getLsbD s (by decide)).trans (by simp), (status_getLsbD s (by decide)).trans (by simp),
    status_extractLsb'_reserved_low s, fun h => by rw [hmode, h]; rfl, fun h => by rw [hmode, h]; rfl,
    fun h => by rw [hmode, h]; rfl, fun h => by rw [hmode, h]; rfl, status_extractLsb'_errcode s,
    status_extractLsb'_reserved_high s⟩

/-- Settles O49: the register map by word number; OVR stays exactly where bit 2 is 0. -/
theorem registerWrites : Obligations.RegisterWrites := by
  intro s off v es hp
  rw [step_write hp]
  refine ⟨fun h => by simp [hostWrite, regionOf_eq, h], fun h => by simp [hostWrite, regionOf_eq, h],
    fun h => by simp [hostWrite, regionOf_eq, h], fun h => ?_, ?_⟩
  · simp only [hostWrite, regionOf_eq, h]
    cases v.getLsbD 2 <;> simp
  · rintro (h | ⟨hlo, hhi⟩ | h)
    · simp [hostWrite, regionOf_eq, h]
    · obtain h | h : off.toNat / 4 = 6 ∨ 7 ≤ off.toNat / 4 := by omega
      · simp [hostWrite, regionOf_eq, h]
      · simp [hostWrite, regionOf_reserved (.inl ⟨h, hhi⟩)]
    · simp [hostWrite, regionOf_reserved (.inr h)]

end Sys2Proof.Machine
end

section
/-! The statements of spec/20_memory.md: which bytes of DMEM a command can see or change, what a host write into its
footprint leaves, what a host read leaves, and when a command runs. -/

namespace Sys2Proof.Machine

/-! A completed command. -/

/-- The execution step ends the command: the latched copies go (R80). -/
theorem exec_running {i : Instr} {s t : State} (ht : exec i s = .next t) : t.running = none := by
  obtain ⟨l, -, ⟨e, -, rfl⟩ | ⟨-, rfl⟩⟩ := exec_next ht <;> rfl

theorem exec_ovr {i : Instr} {s t : State} (ht : exec i s = .next t) : t.ovr = s.ovr := by
  obtain ⟨l, -, ⟨e, -, rfl⟩ | ⟨-, rfl⟩⟩ := exec_next ht <;> simp

theorem settle_running (l : Latch) (i : Option Instr) (t : State) : (settle l i t).running = t.running := by
  unfold settle
  split <;> rfl

theorem settle_ovr (l : Latch) (i : Option Instr) (t : State) : (settle l i t).ovr = t.ovr := by
  unfold settle
  split <;> rfl

/-- A disturbed completion takes one draw (R83). -/
theorem settle_draws {l : Latch} (h : l.disturbed ≠ []) (i : Option Instr) (t : State) :
    (settle l i t).draws = t.draws + 1 := by
  simp [settle, h]

theorem mapNext_settle_undisturbed {l : Latch} (h : l.disturbed = []) (i : Option Instr) (r : Result) :
    mapNext (settle l i) r = r := by
  cases r with
  | next t => rw [mapNext_next, settle_undisturbed h]
  | fault | refused => rfl

/-! The engine's turn. -/

/-- The engine's step comes next: its place in the list of events, or the end of the list (R81, R82). -/
theorem step_engine {s : State} {es : List Event} (h : s.pending = .engine :: es ∨ (s.pending = [] ∧ es = [])) :
    step s = engineStep { s with pending := es } := by
  unfold step
  obtain h | ⟨h, rfl⟩ := h
  · rw [h]
  · have hs : { s with pending := [] } = s := by rw [← h]
    rw [h, hs]

/-- The decoder reads a well-formed command back from its word (R111). -/
theorem decode_encode {i : Instr} (h : i.wellFormed = true) : decode (encode i) = .ok i := by
  cases i
  case rdrk r | ark r => simpa [encode, decode, decodeIndexed_ok, Instr.wellFormed] using h
  case sbox a | isbox a => simp [encode, decode, decodeByte_ok]
  all_goals simp [encode, decode, decodePlain_ok]

/-! DMEM and a command's footprint (R75, R83). -/

/-- A stored string gives a byte the same value in two memories that agree there. -/
theorem Memory.read_writeBytes_congr {m m' : Memory} {x : Nat} (h : m.read x = m'.read x) (a : Nat) (bs : List Byte) :
    (m.writeBytes a bs).read x = (m'.writeBytes a bs).read x := by
  by_cases hx : a ≤ x ∧ x < a + bs.length
  · obtain ⟨k, rfl⟩ := Nat.exists_eq_add_of_le hx.1
    have hk : k < bs.length := by omega
    rw [read_writeBytes_inside _ _ _ hk, read_writeBytes_inside _ _ _ hk]
  · rw [read_writeBytes_outside _ _ (by omega), read_writeBytes_outside _ _ (by omega), h]

theorem Memory.read_write (m : Memory) (a : Nat) (b : Byte) (x : Nat) :
    (m.write a b).read x = if x = a then b else m.read x := by
  by_cases h : x = a
  · rw [if_pos h, h, read_write_self]
  · rw [if_neg h, read_write_ne m b h]

/-- A byte outside the footprint is neither a source byte nor a destination byte. -/
theorem inFootprint_eq_false_iff {l : Latch} {i : Instr} (hd : decode l.cmd = .ok i) (a : Nat) :
    inFootprint l a = false ↔
      (a < l.src.toNat ∨ l.src.toNat + sourceLength i l.len.toNat ≤ a) ∧
        (a < l.dst.toNat ∨ l.dst.toNat + destLength i l.len.toNat ≤ a) := by
  simp only [inFootprint, hd, inSpan, Bool.or_eq_false_iff, Bool.and_eq_false_iff, decide_eq_false_iff_not, not_le,
    not_lt]

theorem checks_dmem (i : Instr) (s : State) (l : Latch) (m : Memory) :
    checks i { s with dmem := m } l = checks i s l := by
  cases i <;> rfl

theorem firstFailure_dmem (i : Instr) (s : State) (l : Latch) (m : Memory) :
    firstFailure i { s with dmem := m } l = firstFailure i s l := by
  rw [firstFailure, checks_dmem, firstFailure]

theorem effect_read_outside {i : Instr} {s : State} {l : Latch} (hp : passes i s l = true) {x : Nat}
    (hx : x < l.dst.toNat ∨ l.dst.toNat + destLength i l.len.toNat ≤ x) :
    (effect i s l).dmem.read x = s.dmem.read x := by
  by_contra hne
  have hin := effect_read_ne hp hne
  omega

/-- From a memory with the same source bytes, a command whose checks pass sets the same registers and stores the same
string at DST. -/
theorem effect_withDmem {i : Instr} {s : State} {l : Latch} {m : Memory} (hp : passes i s l = true)
    (hm : ∀ k < sourceLength i l.len.toNat, m.read (l.src.toNat + k) = s.dmem.read (l.src.toNat + k)) :
    ∃ bs : List Byte, (effect i s l).dmem = s.dmem.writeBytes l.dst.toNat bs ∧
      effect i { s with dmem := m } l = { effect i s l with dmem := m.writeBytes l.dst.toNat bs } := by
  have hsrc : ∀ n ≤ sourceLength i l.len.toNat, m.readBytes l.src.toNat n = s.dmem.readBytes l.src.toNat n :=
    fun n hn => Memory.readBytes_congr fun k hk => hm k (by omega)
  cases i
  case keyld | cfgcbc | setiv =>
    have hlen : l.len.toNat = 16 := by simp_all [passes, checks]
    exact ⟨[], rfl, by simp only [effect, hsrc 16 (by simp [sourceLength, hlen]), Memory.writeBytes]⟩
  case ldst => exact ⟨[], rfl, by simp only [effect, hsrc 16 le_rfl, Memory.writeBytes]⟩
  case cfgctr => exact ⟨[], rfl, by simp only [effect, hsrc l.len.toNat le_rfl, Memory.writeBytes]⟩
  case ecbenc | ecbdec | cbcenc | cbcdec | ctrenc | ctrdec =>
    exact ⟨_, rfl, by simp only [effect, dataEffect, hsrc l.len.toNat le_rfl]⟩
  case rdrk | stst | getiv | rdctr => exact ⟨_, rfl, rfl⟩
  all_goals exact ⟨[], rfl, rfl⟩

/-! The host's duties (R88). -/

/-- A completed command has no footprint left to disturb. -/
theorem settle_noOverrun {t : State} (hr : t.running = none) (ho : t.ovr = false) (l : Latch) (i : Option Instr) :
    (settle l i t).undisturbed = true ∧ (settle l i t).ovr = false := by
  rw [State.undisturbed, settle_running, hr, settle_ovr]
  exact ⟨rfl, ho⟩

/-- The engine's step ends the command, if one is running, and leaves OVR as it was. -/
theorem engineStep_noOverrun {s t : State} (hu : s.undisturbed = true) (ho : s.ovr = false)
    (ht : engineStep s = .next t) : t.undisturbed = true ∧ t.ovr = false := by
  cases hl : s.running with
  | none =>
    rw [engineStep_idle hl] at ht
    cases ht
    exact ⟨hu, ho⟩
  | some l =>
    cases hi : decode l.cmd with
    | error e =>
      rw [engineStep_illegal hl hi] at ht
      cases ht
      exact settle_noOverrun (failed_running _ s) ho l none
    | ok i =>
      obtain ⟨u, hexec⟩ := exec_isNext hl i
      rw [engineStep_command hl hi, hexec, mapNext_next] at ht
      cases ht
      exact settle_noOverrun (exec_running hexec) (exec_ovr hexec ▸ ho) l (some i)

/-- A dutiful host write starts a command on an idle engine, or keeps out of the running command's footprint. -/
theorem hostWrite_noOverrun {s : State} {off v : Word} (hu : s.undisturbed = true) (ho : s.ovr = false)
    (hd : dutiful s (.write off v) = true) :
    (hostWrite s off v).undisturbed = true ∧ (hostWrite s off v).ovr = false := by
  unfold hostWrite
  cases hr : regionOf s.cfg off with
  | cmd =>
    have hb : s.busy = false := by simpa [dutiful, hr] using hd
    simp only [hb, Bool.false_eq_true, if_false]
    exact ⟨rfl, ho⟩
  | status =>
    simp only
    split
    · exact ⟨hu, rfl⟩
    · exact ⟨hu, ho⟩
  | src | dst | len | errlen | result | reserved => exact ⟨hu, ho⟩
  | dmem a =>
    have hg : s.wordGuarded a = false := by simpa [dutiful, hr] using hd
    simp only [hostWriteWord_free ((wordGuarded_eq_false_iff s a).1 hg) v]
    exact ⟨hu, ho⟩

/-- One step of a safe run: of all events only a host write could disturb a footprint or set OVR. -/
theorem step_noOverrun {s t : State} (hu : s.undisturbed = true) (ho : s.ovr = false)
    (hd : ∀ e ∈ s.pending.head?, dutiful s e = true) (ht : step s = .next t) :
    t.undisturbed = true ∧ t.ovr = false := by
  unfold step at ht
  split at ht
  next => exact engineStep_noOverrun hu ho ht
  next es _ => exact engineStep_noOverrun (s := { s with pending := es }) hu ho ht
  next off v es hp =>
    cases ht
    exact hostWrite_noOverrun (s := { s with pending := es }) hu ho (hd (.write off v) (by rw [hp]; rfl))
  next =>
    cases ht
    exact ⟨hu, ho⟩
  next =>
    cases ht
    exact ⟨rfl, rfl⟩

/-! Host reads of an idle engine (R76). -/

/-- What an idle engine's read returns takes no draw. -/
theorem readValue_idle {s : State} (hb : s.busy = false) (off : Word) (d : Nat) (es : List Event) (rs : List Word) :
    readValue { s with draws := d, pending := es, reads := rs } off = readValue s off := by
  have hb' : { s with draws := d, pending := es, reads := rs }.busy = false := hb
  have hg (a : Nat) : s.wordGuarded a = false := (wordGuarded_eq_false_iff s a).2 fun _ _ => guarded_idle hb _
  have hg' (a : Nat) : { s with draws := d, pending := es, reads := rs }.wordGuarded a = false := hg a
  simp only [readValue, hb, hb', hg, hg', Bool.false_eq_true, if_false]
  cases regionOf s.cfg off <;> rfl

/-! The obligations. -/

/-- Settles O54: the command's source bytes are the same, so it stores the same string, and the changed byte is outside
that string's range. -/
theorem commandSeesOnlyItsFootprint : Obligations.CommandSeesOnlyItsFootprint := by
  intro i s l a b hl hd ha
  obtain ⟨hsrc, hdst⟩ := (inFootprint_eq_false_iff hd a).1 ha
  have hfirst := firstFailure_dmem i s l (s.dmem.write a b)
  rw [exec_eq hl, exec_eq (s := { s with dmem := s.dmem.write a b }) hl, answer, answer, hfirst]
  cases hf : firstFailure i s l with
  | some e => exact ⟨_, _, rfl, rfl, rfl, s.dmem.read_write a b⟩
  | none =>
    have hp := (firstFailure_eq_none_iff i s l).1 hf
    have hp' := (firstFailure_eq_none_iff i _ l).1 (hfirst.trans hf)
    obtain ⟨bs, hstore, heffect⟩ := effect_withDmem hp (m := s.dmem.write a b)
      fun k hk => Memory.read_write_ne _ _ (by omega)
    refine ⟨_, _, rfl, rfl, by rw [heffect]; rfl, fun x => ?_⟩
    rw [complete_dmem, complete_dmem]
    split
    case isTrue hx => rw [hx, effect_read_outside hp' hdst, Memory.read_write_self]
    case isFalse hx =>
      rw [heffect, hstore]
      exact Memory.read_writeBytes_congr (Memory.read_write_ne _ _ hx) _ _

/-- Settles O55: the command itself as `exec` runs it, then the bytes that `settle` draws anew. -/
theorem disturbedFootprintIsFree : Obligations.DisturbedFootprintIsFree := by
  intro s l i es hl hd hdist hp
  obtain ⟨t, ht⟩ := exec_isNext (s := { s with pending := es }) hl i
  refine ⟨t, settle l (some i) t, ht, ?_, settle_frame l _ t, settle_draws hdist _ t, fun x => ?_⟩
  · rw [step_engine (.inl hp), engineStep_command (s := { s with pending := es }) hl hd, ht, mapNext_next]
  · rw [settle_read hdist, exec_cfg ht]

/-- Settles O56: by induction on the number of steps, each of which keeps both facts. -/
theorem dutifulHostNeverOverruns : Obligations.DutifulHostNeverOverruns := by
  intro k
  induction k with
  | zero =>
    rintro s _ rfl hu ho
    exact ⟨hu, ho⟩
  | succ k ih =>
    rintro s t ⟨hd, u, hstep, hrun⟩ hu ho
    obtain ⟨hu', ho'⟩ := step_noOverrun hu ho hd hstep
    exact ih u t hrun hu' ho'

/-- Settles O6: the engine's step of the latched word, to which `settle` adds nothing when no byte was touched. -/
theorem stepRunsDecodedCommand : Obligations.StepRunsDecodedCommand := by
  intro s l i es hl hd hp
  have hstep : step s = mapNext (settle l (some i)) (exec i { s with pending := es }) := by
    rw [step_engine hp, engineStep_command (s := { s with pending := es }) hl hd]
  exact ⟨hstep, fun hdist => by rw [hstep, mapNext_settle_undisturbed hdist]⟩

/-- Settles O9: the write is accepted, and the engine's step then runs the command that the latched word decodes to
(`decode_encode`). -/
theorem submittedCommandRuns : Obligations.SubmittedCommandRuns := by
  intro s off i es hwf hb hoff hp
  refine ⟨_, (cmdWriteAcceptsOrOverruns s off _ _ hp hoff).1 hb, rfl, rfl, ?_⟩
  rw [step_engine (es := es) (.inl rfl),
    engineStep_command (l := ⟨encode i, s.src, s.dst, s.len, []⟩) rfl (decode_encode hwf),
    mapNext_settle_undisturbed rfl]

/-- Settles O12: a running command ends in a next state without a latch; an idle engine's `exec` faults. -/
theorem executionEnabledWhileBusy : Obligations.ExecutionEnabledWhileBusy := by
  intro i s
  constructor
  · rintro ⟨t, ht, -⟩
    obtain ⟨l, hl, -⟩ := exec_next ht
    exact (busy_eq_true_iff s).2 ⟨l, hl⟩
  · intro hb
    obtain ⟨l, hl⟩ := (busy_eq_true_iff s).1 hb
    obtain ⟨t, ht⟩ := exec_isNext hl i
    exact ⟨t, ht, (busy_eq_false_iff t).2 (exec_running ht)⟩

/-- Settles O51: a read moves only the host's list and the draw counter, and an idle engine's read takes no draw. -/
theorem hostReadsHaveNoSideEffect : Obligations.HostReadsHaveNoSideEffect := by
  intro s off es hp
  refine ⟨_, _, step_read hp, step_read rfl, rfl, rfl, fun hb => ⟨readValue s off, ?_⟩⟩
  simp only [readValue_idle hb]

end Sys2Proof.Machine
end

section
/-! The statements of spec/30_encoding.md: the decoder and the encoder undo each other, the table of R109 selects what
the decoder reads, and which words are no command. -/

namespace Sys2Proof

open Machine

/-! What the decoder does by opcode. -/

/-- R110(a): the opcodes that no command has. -/
def UnassignedOpc (opc : Nat) : Prop :=
  (0x01 ≤ opc ∧ opc ≤ 0x0F) ∨ (0x12 ≤ opc ∧ opc ≤ 0x1F) ∨ (0x22 ≤ opc ∧ opc ≤ 0x2F) ∨
    (0x39 ≤ opc ∧ opc ≤ 0x3F) ∨ (0x42 ≤ opc ∧ opc ≤ 0x4F) ∨ (0x56 ≤ opc ∧ opc ≤ 0x5F) ∨ 0x66 ≤ opc

/-- The opcodes of ARK and RDRK (R102). -/
def IndexedOpc (opc : Nat) : Prop := opc = 0x38 ∨ opc = 0x11

/-- The opcodes of SBOX and ISBOX (R103). -/
def ByteOpc (opc : Nat) : Prop := opc = 0x20 ∨ opc = 0x21

/-- The decoder's answer for a word, by its opcode: none, or the word read in one of the three forms as a command whose
encoding has that opcode (R108). -/
inductive DecodeForm (w : Word) : Decoded → Prop
  | unassigned (hopc : UnassignedOpc (opcField w).toNat) : DecodeForm w (.error .unassignedOpcode)
  | plain (i : Instr) (hassigned : ¬UnassignedOpc (opcField w).toNat) (hindexed : ¬IndexedOpc (opcField w).toNat)
      (hbyte : ¬ByteOpc (opcField w).toNat) (hwf : i.wellFormed = true)
      (henc : encode i = commandWord (opcField w) 0 0) : DecodeForm w (decodePlain i w)
  | indexed (mk : BitVec 4 → Instr) (hopc : IndexedOpc (opcField w).toNat) (hwf : ∀ r, (mk r).wellFormed = ridxLegal r)
      (henc : ∀ r, encode (mk r) = commandWord (opcField w) r 0) : DecodeForm w (decodeIndexed mk w)
  | byte (mk : Byte → Instr) (hopc : ByteOpc (opcField w).toNat) (hwf : ∀ a, (mk a).wellFormed = true)
      (henc : ∀ a, encode (mk a) = commandWord (opcField w) 0 a) : DecodeForm w (decodeByte mk w)

theorem IndexedOpc.exclusive {opc : Nat} (h : IndexedOpc opc) : ¬UnassignedOpc opc ∧ ¬ByteOpc opc := by
  unfold IndexedOpc UnassignedOpc ByteOpc at *
  omega

theorem ByteOpc.exclusive {opc : Nat} (h : ByteOpc opc) : ¬UnassignedOpc opc ∧ ¬IndexedOpc opc := by
  unfold IndexedOpc UnassignedOpc ByteOpc at *
  omega

theorem opcField_eq_ofNat {w : Word} {n : Nat} (h : (opcField w).toNat = n) : opcField w = BitVec.ofNat 8 n := by
  rw [← h, BitVec.ofNat_toNat, BitVec.setWidth_eq]

/-- Every word is read in one of the forms: the one walk through the opcode map of R108. -/
theorem decode_form (w : Word) : DecodeForm w (decode w) := by
  unfold decode
  split
  case h_29 =>
    have hlt := (opcField w).isLt
    refine .unassigned ?_
    unfold UnassignedOpc
    simp only [imp_false] at *
    omega
  case h_3 hopc | h_14 hopc =>
    exact .indexed _ (by simp [IndexedOpc, hopc]) (fun _ => rfl) fun _ => by rw [opcField_eq_ofNat hopc]; rfl
  case h_4 hopc | h_5 hopc =>
    exact .byte _ (by simp [ByteOpc, hopc]) (fun _ => rfl) fun _ => by rw [opcField_eq_ofNat hopc]; rfl
  all_goals
    rename_i hopc
    exact .plain _ (by simp [UnassignedOpc, hopc]) (by simp [IndexedOpc, hopc]) (by simp [ByteOpc, hopc]) rfl
      (by rw [opcField_eq_ofNat hopc]; rfl)

/-- A word that decodes is the encoding of its command, which is well-formed. -/
theorem encode_of_decode {w : Word} {i : Instr} (h : decode w = .ok i) : i.wellFormed = true ∧ encode i = w := by
  have hform := decode_form w
  generalize decode w = d at h hform
  cases hform with
  | unassigned => cases h
  | plain j _ _ _ hwf henc =>
    obtain ⟨rfl, hrsv, hridx, himm⟩ := (decodePlain_ok j w i).1 h
    exact ⟨hwf, by rw [henc, ← commandWord_fields hrsv, hridx, himm, opcField_commandWord]⟩
  | indexed mk _ hwf henc =>
    obtain ⟨rfl, hrsv, himm, hlegal⟩ := (decodeIndexed_ok mk w i).1 h
    exact ⟨(hwf _).trans hlegal, by rw [henc, ← himm, commandWord_fields hrsv]⟩
  | byte mk _ hwf henc =>
    obtain ⟨rfl, hrsv, hridx⟩ := (decodeByte_ok mk w i).1 h
    exact ⟨hwf _, by rw [henc, ← hridx, commandWord_fields hrsv]⟩

/-! Illegal words. -/

/-- A word is no command exactly when one of the clauses (a) to (e) of R110 holds of its fields. -/
theorem decode_ne_ok_iff (w : Word) :
    (∀ i, decode w ≠ .ok i) ↔
      UnassignedOpc (opcField w).toNat ∨ rsvField w ≠ 0 ∨ (ridxField w ≠ 0 ∧ ¬IndexedOpc (opcField w).toNat) ∨
        (imm8Field w ≠ 0 ∧ ¬ByteOpc (opcField w).toNat) ∨
        (ridxLegal (ridxField w) = false ∧ IndexedOpc (opcField w).toNat) := by
  have hform := decode_form w
  generalize decode w = d at hform
  rw [← not_exists]
  cases hform with
  | unassigned hopc => simp [hopc]
  | plain i hassigned hindexed hbyte => simp [decodePlain_ok, hassigned, hindexed, hbyte, imp_iff_not_or]
  | indexed mk hopc =>
    obtain ⟨hassigned, hbyte⟩ := hopc.exclusive
    simp [decodeIndexed_ok, hopc, hassigned, hbyte, imp_iff_not_or]
  | byte mk hopc =>
    obtain ⟨hassigned, hindexed⟩ := hopc.exclusive
    simp [decodeByte_ok, hopc, hassigned, hindexed, imp_iff_not_or]

/-- The engine's step on an illegal word, with no footprint byte touched (R110, R80). -/
theorem engineStep_of_decode_ne_ok {s : State} {l : Latch} (hl : s.running = some l) (hill : ∀ i, decode l.cmd ≠ .ok i)
    (hdist : l.disturbed = []) : engineStep s = .next (s.failed .illegalCommand) := by
  cases hd : decode l.cmd with
  | ok i => exact absurd hd (hill i)
  | error e => rw [engineStep_illegal hl hd, settle_undisturbed hdist]

/-! The table of R109. -/

theorem opcField_and (v w : Word) : opcField (v &&& w) = opcField v &&& opcField w := BitVec.extractLsb'_and

theorem ridxField_and (v w : Word) : ridxField (v &&& w) = ridxField v &&& ridxField w := BitVec.extractLsb'_and

theorem rsvField_and (v w : Word) : rsvField (v &&& w) = rsvField v &&& rsvField w := BitVec.extractLsb'_and

theorem imm8Field_and (v w : Word) : imm8Field (v &&& w) = imm8Field v &&& imm8Field w := BitVec.extractLsb'_and

/-- A word is a command word with reserved bits 0 when its fields say so. -/
theorem eq_commandWord_iff {w : Word} {opc : Byte} {ridx : BitVec 4} {imm8 : Byte} :
    w = commandWord opc ridx imm8 ↔ opcField w = opc ∧ ridxField w = ridx ∧ rsvField w = 0 ∧ imm8Field w = imm8 := by
  constructor
  · rintro rfl
    simp
  · rintro ⟨rfl, rfl, hrsv, rfl⟩
    exact (commandWord_fields hrsv).symm

/-- What a mask that covers OPC and RSV, as every mask of R109 does, asks of a word's fields. -/
theorem and_eq_commandWord_iff {w mask : Word} {opc : Byte} (hopc : opcField mask = BitVec.allOnes 8)
    (hrsv : rsvField mask = BitVec.allOnes 12) :
    w &&& mask = commandWord opc 0 0 ↔
      opcField w = opc ∧ ridxField w &&& ridxField mask = 0 ∧ rsvField w = 0 ∧ imm8Field w &&& imm8Field mask = 0 := by
  simp only [eq_commandWord_iff, opcField_and, ridxField_and, rsvField_and, imm8Field_and, hopc, hrsv,
    BitVec.and_allOnes]

/-- The mask of ARK and RDRK leaves RIDX out. -/
theorem and_indexedMask_eq_iff {w : Word} {opc : Byte} :
    w &&& 0xFF0FFFFF = commandWord opc 0 0 ↔ w = commandWord opc (ridxField w) 0 := by
  have hridx : ridxField 0xFF0FFFFF = 0#4 := rfl
  have himm : imm8Field 0xFF0FFFFF = BitVec.allOnes 8 := rfl
  rw [and_eq_commandWord_iff rfl rfl, eq_commandWord_iff, hridx, himm, BitVec.and_zero, BitVec.and_allOnes]
  simp

/-- The mask of SBOX and ISBOX leaves IMM8 out. -/
theorem and_byteMask_eq_iff {w : Word} {opc : Byte} :
    w &&& 0xFFFFFF00 = commandWord opc 0 0 ↔ w = commandWord opc 0 (imm8Field w) := by
  have hridx : ridxField 0xFFFFFF00 = BitVec.allOnes 4 := rfl
  have himm : imm8Field 0xFFFFFF00 = 0#8 := rfl
  rw [and_eq_commandWord_iff rfl rfl, eq_commandWord_iff, hridx, himm, BitVec.and_allOnes, BitVec.and_zero]
  simp

/-- The mask of every other command leaves nothing out. -/
theorem and_fullMask (w : Word) : w &&& 0xFFFFFFFF#32 = w := BitVec.and_allOnes

/-- The row of R109 of a command: its OPC with every other bit 0, and the mask of the fields it does not use. -/
def Instr.row (i : Instr) : OpcodeRow :=
  match i with
  | .rdrk _ | .ark _ => ⟨i.mnemonic, commandWord (opcField (encode i)) 0 0, 0xFF0FFFFF, true⟩
  | .sbox _ | .isbox _ => ⟨i.mnemonic, commandWord (opcField (encode i)) 0 0, 0xFFFFFF00, false⟩
  | _ => ⟨i.mnemonic, commandWord (opcField (encode i)) 0 0, 0xFFFFFFFF, false⟩

/-- One command for each row of R109, in the table's order. -/
def commands : List Instr :=
  [.nop, .keyld, .rdrk 0, .sbox 0, .isbox 0, .ldst, .stst, .subb, .isubb, .shr, .ishr, .mixc, .imixc, .ark 0, .encb,
    .decb, .cfgecb, .cfgcbc, .cfgctr, .setiv, .getiv, .rdctr, .ecbenc, .ecbdec, .cbcenc, .cbcdec, .ctrenc, .ctrdec]

/-- The table of R109 agrees with the encoder. -/
theorem opcodeTable_eq_map_row : opcodeTable = commands.map Instr.row := by decide

theorem row_mem_opcodeTable (i : Instr) : i.row ∈ opcodeTable := by
  cases i
  case rdrk r | ark r | sbox a | isbox a =>
    simp only [Instr.row, Instr.mnemonic, encode, opcField_commandWord]
    decide
  all_goals decide

theorem exists_row_eq {row : OpcodeRow} (h : row ∈ opcodeTable) : ∃ i : Instr, i.row = row := by
  rw [opcodeTable_eq_map_row] at h
  obtain ⟨i, -, hi⟩ := List.mem_map.1 h
  exact ⟨i, hi⟩

theorem row_mnemonic (i : Instr) : i.row.mnemonic = i.mnemonic := by
  cases i <;> rfl

theorem opcodeTable_mnemonics_nodup : (opcodeTable.map OpcodeRow.mnemonic).Nodup := by decide

/-- A command's name determines its row. -/
theorem row_eq_of_mnemonic_eq {i : Instr} {row : OpcodeRow} (hrow : row ∈ opcodeTable)
    (h : i.mnemonic = row.mnemonic) : i.row = row :=
  List.inj_on_of_nodup_map opcodeTable_mnemonics_nodup (row_mem_opcodeTable i) hrow ((row_mnemonic i).trans h)

/-- A command's row selects its word. -/
theorem encode_and_row_mask (i : Instr) : encode i &&& i.row.mask = i.row.pattern := by
  cases i
  case rdrk r | ark r => exact and_indexedMask_eq_iff.2 (by simp [encode])
  case sbox a | isbox a => exact and_byteMask_eq_iff.2 (by simp [encode])
  all_goals exact and_fullMask _

theorem ridxField_encode_le {i : Instr} (h : i.wellFormed = true) : (ridxField (encode i)).toNat ≤ 10 := by
  cases i
  case rdrk r | ark r => simpa [encode, Instr.wellFormed, ridxLegal] using h
  all_goals simp [encode]

/-- A word that a row selects is the encoding of a command of the row's name. -/
theorem exists_encode_of_selected {i : Instr} {w : Word} (hmask : w &&& i.row.mask = i.row.pattern)
    (hbound : i.mnemonic = "ARK" ∨ i.mnemonic = "RDRK" → (ridxField w).toNat ≤ 10) :
    ∃ j : Instr, j.wellFormed = true ∧ encode j = w ∧ j.mnemonic = i.mnemonic := by
  cases i
  case rdrk r =>
    refine ⟨.rdrk (ridxField w), decide_eq_true (hbound (.inr rfl)), ?_, rfl⟩
    simpa [Instr.row, encode] using (and_indexedMask_eq_iff.1 hmask).symm
  case ark r =>
    refine ⟨.ark (ridxField w), decide_eq_true (hbound (.inl rfl)), ?_, rfl⟩
    simpa [Instr.row, encode] using (and_indexedMask_eq_iff.1 hmask).symm
  case sbox a =>
    refine ⟨.sbox (imm8Field w), rfl, ?_, rfl⟩
    simpa [Instr.row, encode] using (and_byteMask_eq_iff.1 hmask).symm
  case isbox a =>
    refine ⟨.isbox (imm8Field w), rfl, ?_, rfl⟩
    simpa [Instr.row, encode] using (and_byteMask_eq_iff.1 hmask).symm
  all_goals
    refine ⟨_, rfl, ?_, rfl⟩
    simpa [Instr.row, encode, and_fullMask] using hmask.symm

/-- Every row's mask covers OPC. -/
theorem opcField_mask {row : OpcodeRow} (h : row ∈ opcodeTable) : opcField row.mask = BitVec.allOnes 8 := by
  revert row
  decide

theorem opcField_of_selected {row : OpcodeRow} (h : row ∈ opcodeTable) {w : Word} (hw : w &&& row.mask = row.pattern) :
    opcField row.pattern = opcField w := by
  rw [← hw, opcField_and, opcField_mask h, BitVec.and_allOnes]

/-- No two rows have the same opcode. -/
theorem opcodeTable_opcodes_distinct :
    opcodeTable.Pairwise fun p q => opcField p.pattern ≠ opcField q.pattern := by decide

/-! The obligations. -/

/-- Settles O1: by the decoder's form for each command, as `decode_encode` says. -/
theorem decodeOfEncode : Obligations.DecodeOfEncode :=
  fun _ hwf => decode_encode hwf

/-- Settles O2: by the form in which the word was read. -/
theorem encodeOfDecode : Obligations.EncodeOfDecode :=
  fun _ _ h => encode_of_decode h

/-- Settles O3: a row is the row of a command, and its name and its opcode each determine it. -/
theorem opcodeTableSelectsCommand : Obligations.OpcodeTableSelectsCommand := by
  refine ⟨rfl, fun row hrow w => ⟨?_, ?_⟩, ?_⟩
  · rintro ⟨i, hi, hname⟩
    obtain ⟨hwf, rfl⟩ := encode_of_decode hi
    obtain rfl := row_eq_of_mnemonic_eq hrow hname
    exact ⟨encode_and_row_mask i, fun _ => ridxField_encode_le hwf⟩
  · rintro ⟨hmask, hbound⟩
    obtain ⟨i, rfl⟩ := exists_row_eq hrow
    rw [row_mnemonic] at hbound ⊢
    obtain ⟨j, hwf, rfl, hname⟩ := exists_encode_of_selected hmask hbound
    exact ⟨j, decode_encode hwf, hname⟩
  · refine opcodeTable_opcodes_distinct.imp_of_mem fun hp hq hne w ⟨hwp, hwq⟩ => hne ?_
    rw [opcField_of_selected hp hwp, opcField_of_selected hq hwq]

/-- Settles O4: the illegal words by `decode_ne_ok_iff`, the completion by `engineStep_of_decode_ne_ok`. -/
theorem illegalWordsAreThoseListed : Obligations.IllegalWordsAreThoseListed := by
  refine ⟨fun s l hl hill hdist => engineStep_of_decode_ne_ok hl hill hdist, fun w => (decode_ne_ok_iff w).trans ?_⟩
  simp only [UnassignedOpc, IndexedOpc, ByteOpc, ridxLegal, decide_eq_false_iff_not, not_le, not_or, ne_eq,
    ← BitVec.toNat_inj]
  rfl

/-- Settles O5: five words and four illegal words, decoded. -/
theorem exampleWordsDecode : Obligations.ExampleWordsDecode := by
  unfold Obligations.ExampleWordsDecode
  decide

/-- Settles O7: the engine's turn uses up its event, and the illegal word completes as in O4. -/
theorem illegalWordCompletes : Obligations.IllegalWordCompletes := by
  intro s l es hl hill hdist hp
  rw [step_engine (.inl hp)]
  exact engineStep_of_decode_ne_ok (s := { s with pending := es }) hl hill hdist

end Sys2Proof
end

section
/-! The statements of spec/40_sbox.md: the tables against their definition, and the two commands that read them. -/

namespace Sys2Proof.Machine

/-! The tables of R140 and R141. -/

theorem invSboxOf_leftInverse : Function.LeftInverse invSboxOf sboxOf := by
  unfold Function.LeftInverse
  decide +kernel

/-- On a finite type a left inverse of the S-box is a right inverse too. -/
theorem invSboxOf_rightInverse : Function.RightInverse invSboxOf sboxOf :=
  have : Finite Byte := .of_equiv _ BitVec.equivFin.symm.toEquiv
  invSboxOf_leftInverse.rightInverse_of_surjective (Finite.surjective_of_injective invSboxOf_leftInverse.injective)

/-! The affine map of R142. -/

/-- The inverse of `affineMap`, bit by bit, with the constant 0x05. -/
def invAffineMap (c : Byte) : Byte :=
  BitVec.ofFnLE fun i : Fin 8 =>
    c.getLsbD ((i + 2) % 8) ^^ c.getLsbD ((i + 5) % 8) ^^ c.getLsbD ((i + 7) % 8) ^^ (0x05 : Byte).getLsbD i

theorem affineMap_leftInverse : Function.LeftInverse affineMap invAffineMap := by
  unfold Function.LeftInverse
  decide +kernel

/-! The byte that the affine map takes to the S-box entry is the field inverse. -/

theorem invAffineMap_sboxOf_zero : invAffineMap (sboxOf 0) = 0 := by decide

theorem gmul_invAffineMap_sboxOf : ∀ a : Byte, a ≠ 0 → gmul a (invAffineMap (sboxOf a)) = 1 := by
  decide +kernel

/-! The obligations. -/

/-- Settles O20: the inverse of a is the S-box entry read back through the affine map, and the product with it is 1 at
every a but 0. -/
theorem sboxTablesAgreeWithDefinition : Obligations.SboxTablesAgreeWithDefinition := fun a =>
  ⟨invSboxOf_leftInverse a, invSboxOf_rightInverse a, invAffineMap (sboxOf a),
    fun h => h ▸ invAffineMap_sboxOf_zero, gmul_invAffineMap_sboxOf a, (affineMap_leftInverse _).symm⟩

/-- Settles O19: neither command has a check, so each answers its effect, completed (`exec_eq`). -/
theorem sboxCommandsSetResult : Obligations.SboxCommandsSetResult := by
  intro s a hb
  obtain ⟨l, hl⟩ := Option.isSome_iff_exists.1 hb
  exact ⟨exec_eq hl (.sbox a), exec_eq hl (.isbox a)⟩

end Sys2Proof.Machine
end

section
/-! The statements of spec/41_round_transform.md: GF(2^8) and the step functions, their laws, the commands on STATE, and
the four commands that store a block at DST. -/

namespace Sys2Proof.Machine

/-! The product of R19, as a sum over the bits of its second factor. -/

/-- A byte kept or dropped by one bit: a summand of the product of R19 (`gmul_eq_sum`). -/
def bitMul (p : Bool) (x : Byte) : Byte := if p then x else 0

@[simp] theorem bitMul_true (x : Byte) : bitMul true x = x := rfl

@[simp] theorem bitMul_false (x : Byte) : bitMul false x = 0 := rfl

theorem bitMul_xor (p : Bool) (x y : Byte) : bitMul p (x ^^^ y) = bitMul p x ^^^ bitMul p y := by
  cases p <;> simp

theorem xor_bitMul (p q : Bool) (x : Byte) : bitMul (p ^^ q) x = bitMul p x ^^^ bitMul q x := by
  cases p <;> cases q <;> simp

theorem xtime_eq (a : Byte) : xtime a = a <<< 1 ^^^ bitMul (a.getLsbD 7) 0x1B := rfl

theorem gmul_eq_sum (a b : Byte) :
    gmul a b = bitMul (b.getLsbD 0) a ^^^ bitMul (b.getLsbD 1) (xtimes 1 a) ^^^ bitMul (b.getLsbD 2) (xtimes 2 a) ^^^
      bitMul (b.getLsbD 3) (xtimes 3 a) ^^^ bitMul (b.getLsbD 4) (xtimes 4 a) ^^^ bitMul (b.getLsbD 5) (xtimes 5 a) ^^^
      bitMul (b.getLsbD 6) (xtimes 6 a) ^^^ bitMul (b.getLsbD 7) (xtimes 7 a) := by
  have hsummand : ∀ (acc : Byte) (i : Nat), (if b.getLsbD i then acc ^^^ xtimes i a else acc) =
      acc ^^^ bitMul (b.getLsbD i) (xtimes i a) := fun acc i => by cases b.getLsbD i <;> simp
  simp [gmul, hsummand, List.range_succ, xtimes]

/-! The product is linear in each factor. -/

theorem xtime_xor (a b : Byte) : xtime (a ^^^ b) = xtime a ^^^ xtime b := by
  simp only [xtime_eq, BitVec.shiftLeft_xor_distrib, BitVec.getLsbD_xor, xor_bitMul]
  ac_rfl

@[simp] theorem xtime_zero : xtime 0#8 = 0#8 := by decide

theorem xtime_bitMul (p : Bool) (x : Byte) : xtime (bitMul p x) = bitMul p (xtime x) := by
  cases p <;> simp

theorem xtimes_xor (n : Nat) (a b : Byte) : xtimes n (a ^^^ b) = xtimes n a ^^^ xtimes n b := by
  induction n with
  | zero => rfl
  | succ n ih => rw [xtimes, ih, xtime_xor, ← xtimes, ← xtimes]

theorem gmul_xor_left (a b k : Byte) : gmul (a ^^^ b) k = gmul a k ^^^ gmul b k := by
  simp only [gmul_eq_sum, xtimes_xor, bitMul_xor]
  ac_rfl

theorem gmul_xor_right (a k m : Byte) : gmul a (k ^^^ m) = gmul a k ^^^ gmul a m := by
  simp only [gmul_eq_sum, BitVec.getLsbD_xor, xor_bitMul]
  ac_rfl

@[simp] theorem gmul_zero (a : Byte) : gmul a 0#8 = 0#8 := rfl

@[simp] theorem gmul_one (a : Byte) : gmul a 1#8 = a := by simp [gmul_eq_sum]

theorem gmul_two (a : Byte) : gmul a 2#8 = xtime a := by simp [gmul_eq_sum, xtimes]

theorem gmul_three (a : Byte) : gmul a 3#8 = xtime a ^^^ a := by
  rw [show 3#8 = 2#8 ^^^ 1#8 from rfl, gmul_xor_right, gmul_two, gmul_one]

theorem gmul_bitMul (p : Bool) (a k : Byte) : gmul a (bitMul p k) = bitMul p (gmul a k) := by
  cases p <;> simp

/-! The product is associative, because `xtime` passes through both factors. -/

/-- The reduction of R19: x^8 = x^4 + x^3 + x + 1. -/
theorem xtimes_eight : ∀ a : Byte, xtimes 8 a = gmul a 0x1B := by
  decide +kernel

/-- `xtime` moves every summand of the product one bit up. -/
theorem xtime_gmul (a b : Byte) :
    xtime (gmul a b) = gmul a (b <<< 1) ^^^ bitMul (b.getLsbD 7) (xtimes 8 a) := by
  simp only [gmul_eq_sum, xtime_xor, xtime_bitMul, BitVec.getLsbD_shiftLeft]
  simp [xtimes]

theorem gmul_xtime (a b : Byte) : gmul a (xtime b) = xtime (gmul a b) := by
  rw [xtime_eq, gmul_xor_right, gmul_bitMul, xtime_gmul, xtimes_eight]

theorem gmul_xtimes (n : Nat) (a b : Byte) : gmul a (xtimes n b) = xtimes n (gmul a b) := by
  induction n with
  | zero => rfl
  | succ n ih => rw [xtimes, gmul_xtime, ih, xtimes]

theorem gmul_assoc (a b c : Byte) : gmul (gmul a b) c = gmul a (gmul b c) := by
  rw [gmul_eq_sum (gmul a b) c, gmul_eq_sum b c]
  simp only [gmul_xor_right, gmul_bitMul, gmul_xtimes]

/-! The step functions byte by byte and element by element (R160 to R165). -/

theorem elemAt_blockOf (f : Nat → Byte) {r c : Nat} (hr : r < 4) (hc : c < 4) :
    elemAt (blockOf f) r c = f (r + 4 * c) :=
  byteAt_blockOf f (by omega)

theorem elemAt_subBytes (b : Block) {r c : Nat} (hr : r < 4) (hc : c < 4) :
    elemAt (subBytes b) r c = sboxOf (elemAt b r c) :=
  elemAt_blockOf _ hr hc

theorem elemAt_invSubBytes (b : Block) {r c : Nat} (hr : r < 4) (hc : c < 4) :
    elemAt (invSubBytes b) r c = invSboxOf (elemAt b r c) :=
  elemAt_blockOf _ hr hc

theorem elemAt_xorBlock (a b : Block) {r c : Nat} (hr : r < 4) (hc : c < 4) :
    elemAt (xorBlock a b) r c = elemAt a r c ^^^ elemAt b r c :=
  elemAt_blockOf _ hr hc

theorem elemAt_shiftRows (b : Block) {r c : Nat} (hr : r < 4) (hc : c < 4) :
    elemAt (shiftRows b) r c = elemAt b r ((c + r) % 4) :=
  elemAt_matrixOf _ hr hc

theorem elemAt_invShiftRows (b : Block) {r c : Nat} (hr : r < 4) (hc : c < 4) :
    elemAt (invShiftRows b) r c = elemAt b r ((c + 4 - r) % 4) :=
  elemAt_matrixOf _ hr hc

theorem elemAt_circulantColumns (k0 k1 k2 k3 : Byte) (b : Block) {r c : Nat} (hr : r < 4) (hc : c < 4) :
    elemAt (circulantColumns k0 k1 k2 k3 b) r c =
      circulantRow k0 k1 k2 k3 (elemAt b 0 c) (elemAt b 1 c) (elemAt b 2 c) (elemAt b 3 c) r :=
  elemAt_matrixOf _ hr hc

/-! SubBytes and InvSubBytes. -/

theorem invSubBytes_subBytes (b : Block) : invSubBytes (subBytes b) = b :=
  matrix_ext fun r hr c hc => by rw [elemAt_invSubBytes _ hr hc, elemAt_subBytes _ hr hc, invSboxOf_leftInverse]

theorem subBytes_invSubBytes (b : Block) : subBytes (invSubBytes b) = b :=
  matrix_ext fun r hr c hc => by rw [elemAt_subBytes _ hr hc, elemAt_invSubBytes _ hr hc, invSboxOf_rightInverse]

/-! ShiftRows generates the row steps: n of them rotate row r left by n * r. -/

theorem elemAt_iterate_shiftRows (n : Nat) (b : Block) {r c : Nat} (hr : r < 4) (hc : c < 4) :
    elemAt (shiftRows^[n] b) r c = elemAt b r ((c + n * r) % 4) := by
  induction n generalizing c with
  | zero => rw [Nat.zero_mul, Nat.add_zero, Nat.mod_eq_of_lt hc, Function.iterate_zero_apply]
  | succ n ih =>
    rw [Function.iterate_succ_apply', elemAt_shiftRows _ hr hc, ih (Nat.mod_lt _ (by decide)), Nat.mod_add_mod,
      Nat.succ_mul, Nat.add_right_comm, Nat.add_assoc]

theorem iterate_four_shiftRows (b : Block) : shiftRows^[4] b = b :=
  matrix_ext fun r hr c hc => by
    rw [elemAt_iterate_shiftRows 4 b hr hc, show (c + 4 * r) % 4 = c by omega]

theorem invShiftRows_eq_iterate_shiftRows : invShiftRows = shiftRows^[3] :=
  funext fun b => matrix_ext fun r hr c hc => by
    rw [elemAt_iterate_shiftRows 3 b hr hc, elemAt_invShiftRows b hr hc,
      show (c + 4 - r) % 4 = (c + 3 * r) % 4 by omega]

theorem invShiftRows_shiftRows (b : Block) : invShiftRows (shiftRows b) = b := by
  rw [invShiftRows_eq_iterate_shiftRows]
  exact iterate_four_shiftRows b

theorem shiftRows_invShiftRows (b : Block) : shiftRows (invShiftRows b) = b := by
  rw [invShiftRows_eq_iterate_shiftRows]
  exact iterate_four_shiftRows b

/-- A step that acts on each byte alone commutes with ShiftRows. -/
theorem commute_shiftRows {g : Block → Block} {f : Byte → Byte}
    (hg : ∀ b, ∀ r < 4, ∀ c < 4, elemAt (g b) r c = f (elemAt b r c)) : Function.Commute g shiftRows := fun b =>
  matrix_ext fun r hr c hc => by
    rw [hg _ r hr c hc, elemAt_shiftRows _ hr hc, elemAt_shiftRows _ hr hc, hg _ r hr _ (Nat.mod_lt _ (by decide))]

theorem commute_invShiftRows {g : Block → Block} (hg : Function.Commute g shiftRows) :
    Function.Commute g invShiftRows :=
  invShiftRows_eq_iterate_shiftRows ▸ hg.iterate_right 3

theorem subBytes_commute_shiftRows : Function.Commute subBytes shiftRows :=
  commute_shiftRows fun b _ hr _ hc => elemAt_subBytes b hr hc

theorem invSubBytes_commute_shiftRows : Function.Commute invSubBytes shiftRows :=
  commute_shiftRows fun b _ hr _ hc => elemAt_invSubBytes b hr hc

/-! MixColumns and InvMixColumns: products with circulant matrices. -/

theorem circulantRow_xor (k0 k1 k2 k3 s0 s1 s2 s3 t0 t1 t2 t3 : Byte) (r : Nat) :
    circulantRow k0 k1 k2 k3 (s0 ^^^ t0) (s1 ^^^ t1) (s2 ^^^ t2) (s3 ^^^ t3) r =
      circulantRow k0 k1 k2 k3 s0 s1 s2 s3 r ^^^ circulantRow k0 k1 k2 k3 t0 t1 t2 t3 r := by
  unfold circulantRow
  split <;> simp only [gmul_xor_left] <;> ac_rfl

theorem circulantColumns_xorBlock (k0 k1 k2 k3 : Byte) (a b : Block) :
    circulantColumns k0 k1 k2 k3 (xorBlock a b) =
      xorBlock (circulantColumns k0 k1 k2 k3 a) (circulantColumns k0 k1 k2 k3 b) :=
  matrix_ext fun r hr c hc => by
    simp only [elemAt_xorBlock, elemAt_circulantColumns, circulantRow_xor, hr, hc, Nat.reduceLT]

/-- The product of two circulant matrices is circulant; its row 0 is the transpose of the left matrix applied to row 0
of the right one. -/
theorem circulantColumns_comp (j0 j1 j2 j3 k0 k1 k2 k3 : Byte) (b : Block) :
    circulantColumns j0 j1 j2 j3 (circulantColumns k0 k1 k2 k3 b) =
      circulantColumns (circulantRow j0 j3 j2 j1 k0 k1 k2 k3 0) (circulantRow j0 j3 j2 j1 k0 k1 k2 k3 1)
        (circulantRow j0 j3 j2 j1 k0 k1 k2 k3 2) (circulantRow j0 j3 j2 j1 k0 k1 k2 k3 3) b :=
  matrix_ext fun r hr c hc => by
    simp only [elemAt_circulantColumns, hr, hc, Nat.reduceLT]
    interval_cases r <;> simp only [circulantRow, gmul_xor_left, gmul_xor_right, gmul_assoc] <;> ac_rfl

/-- The unit matrix. -/
theorem circulantColumns_one (b : Block) : circulantColumns 1 0 0 0 b = b :=
  matrix_ext fun r hr c hc => by
    rw [elemAt_circulantColumns _ _ _ _ _ hr hc]
    interval_cases r <;> simp [circulantRow]

theorem invMixColumns_mixColumns (b : Block) : invMixColumns (mixColumns b) = b :=
  (circulantColumns_comp 0x0E 0x0B 0x0D 0x09 0x02 0x03 0x01 0x01 b).trans (circulantColumns_one b)

theorem mixColumns_invMixColumns (b : Block) : mixColumns (invMixColumns b) = b :=
  (circulantColumns_comp 0x02 0x03 0x01 0x01 0x0E 0x0B 0x0D 0x09 b).trans (circulantColumns_one b)

/-! AddRoundKey (R166). -/

theorem xorBlock_xorBlock_cancel (b k : Block) : xorBlock (xorBlock b k) k = b :=
  block_ext fun i hi => by
    rw [byteAt_xorBlock _ _ hi, byteAt_xorBlock _ _ hi, BitVec.xor_assoc, BitVec.xor_self, BitVec.xor_zero]

/-! The commands. -/

/-- A running command whose checks pass ends with its effect. -/
theorem exec_of_passes {i : Instr} {s : State} {l : Latch} (hl : s.running = some l) (hp : passes i s l = true) :
    exec i s = .next (effect i s l).complete := by
  rw [exec_eq hl, answer, (firstFailure_eq_none_iff i s l).2 hp]

theorem effect_of_storedBlock {i : Instr} {s : State} {b : Block} (h : storedBlock i s = some b) (l : Latch) :
    effect i s l = storeEffect s l b := by
  cases i
  case rdrk r | stst | getiv | rdctr => cases h; rfl
  all_goals nomatch h

theorem read_writeBytes_block (m : Memory) (a : Nat) (b : Block) {k : Nat} (hk : k < 16) :
    (m.writeBytes a (blockBytes b)).read (a + k) = byteAt b k := by
  have hlen : k < (blockBytes b).length := by simpa using hk
  rw [Memory.read_writeBytes_inside m a _ hlen, ← blockBytes_getD, List.getD_eq_getElem _ _ hlen]

theorem byteAt_blockOfBytes_readBytes (m : Memory) (a : Nat) {k : Nat} (hk : k < 16) :
    byteAt (blockOfBytes (m.readBytes a 16)) k = m.read (a + k) := by
  have hlen : k < (m.readBytes a 16).length := by simpa using hk
  rw [byteAt_blockOfBytes _ hk, List.getD_eq_getElem _ _ hlen, Memory.readBytes_getElem]

theorem passes_ark {s : State} (hk : s.keyv = true) {r : BitVec 4} (hr : r.toNat ≤ 10) (l : Latch) :
    passes (.ark r) s l = true := by
  simp [passes, checks, ridxLegal, hk, hr]

theorem passes_encb {s : State} (hk : s.keyv = true) (l : Latch) : passes .encb s l = true := by
  simp [passes, checks, hk]

theorem passes_decb {s : State} (hk : s.keyv = true) (l : Latch) : passes .decb s l = true := by
  simp [passes, checks, hk]

theorem passes_ldst {s : State} {l : Latch} (h : l.src.toNat + 16 ≤ s.cfg.dmemSize) : passes .ldst s l = true := by
  simp [passes, checks, rangeFails_eq_false_iff, h]

/-! The obligations. -/

/-- Settles O24: each of the four commands ends with its block stored at DST (`storeEffect`), which reads back there and
nowhere else. -/
theorem storingCommandsWriteDst : Obligations.StoringCommandsWriteDst := by
  intro i s l b hl hp hb
  refine ⟨s.dmem.writeBytes l.dst.toNat (blockBytes b), ?_, fun k hk => read_writeBytes_block _ _ _ hk, fun x hx =>
    Memory.read_writeBytes_outside _ _ (by rwa [blockBytes_length])⟩
  rw [exec_of_passes hl hp, effect_of_storedBlock hb]
  rfl

/-- Settles O34: n ShiftRows rotate row r left by n * r, so four are the identity and three are InvShiftRows. -/
theorem shiftRowsRotatesRows : Obligations.ShiftRowsRotatesRows := by
  refine fun b => ⟨fun r hr c hc => elemAt_shiftRows b hr hc, fun r hr c hc => ?_, iterate_four_shiftRows b,
    congrFun invShiftRows_eq_iterate_shiftRows b⟩
  rw [elemAt_invShiftRows b hr (Nat.mod_lt _ (by decide)), show ((c + r) % 4 + 4 - r) % 4 = c by omega]

/-- Settles O36: the byte steps inverted by the tables of R140 and R141, the row steps as powers of ShiftRows, and the
column steps as products of circulant matrices over GF(2^8). -/
theorem roundStepLaws : Obligations.RoundStepLaws := fun a b =>
  ⟨invSubBytes_subBytes b, subBytes_invSubBytes b, invShiftRows_shiftRows b, shiftRows_invShiftRows b,
    invMixColumns_mixColumns b, mixColumns_invMixColumns b, subBytes_commute_shiftRows b,
    commute_invShiftRows subBytes_commute_shiftRows b, invSubBytes_commute_shiftRows b,
    commute_invShiftRows invSubBytes_commute_shiftRows b, circulantColumns_xorBlock _ _ _ _ a b, by decide +kernel⟩

/-- Settles O60: the product of R19 is the sum of `gmul_eq_sum`, and every column step is the row of its matrix. -/
theorem roundStepsByBytes : Obligations.RoundStepsByBytes := by
  refine ⟨xtime_eq, gmul_eq_sum, fun b => ⟨fun _ hi => byteAt_blockOf _ hi, fun _ hi => byteAt_blockOf _ hi,
    fun c hc => ?_, fun c hc => ?_, invMixColumns_mixColumns b⟩⟩
  · simp [mixColumns, elemAt_circulantColumns, hc, circulantRow, gmul_two, gmul_three]
  · simp [invMixColumns, elemAt_circulantColumns, hc, circulantRow]

/-- Settles O21: none of the six commands has a check, so each ends with its effect. -/
theorem transformCommandsOnState : Obligations.TransformCommandsOnState := by
  intro s hb
  obtain ⟨l, hl⟩ := (busy_eq_true_iff s).1 hb
  exact ⟨exec_of_passes hl rfl, exec_of_passes hl rfl, exec_of_passes hl rfl, exec_of_passes hl rfl,
    exec_of_passes hl rfl, exec_of_passes hl rfl⟩

/-- Settles O22: with a key and a legal index the checks of the three commands pass. -/
theorem keyedStateCommands : Obligations.KeyedStateCommands := by
  intro s r hb hk
  obtain ⟨l, hl⟩ := (busy_eq_true_iff s).1 hb
  exact ⟨fun hr => exec_of_passes hl (passes_ark hk hr l), exec_of_passes hl (passes_encb hk l),
    exec_of_passes hl (passes_decb hk l)⟩

/-- Settles O23: with its source inside DMEM, LDST ends with the block of the 16 bytes read there. -/
theorem ldstLoadsState : Obligations.LdstLoadsState := fun _ _ hl h =>
  ⟨_, exec_of_passes hl (passes_ldst h), fun _ hk => byteAt_blockOfBytes_readBytes _ _ hk⟩

/-- Settles O35, byte by byte. -/
theorem addRoundKeySelfInverse : Obligations.AddRoundKeySelfInverse := fun b k =>
  ⟨fun _ hi => byteAt_xorBlock b k hi, xorBlock_xorBlock_cancel b k⟩

end Sys2Proof.Machine
end

section
/-! The statements of spec/42_key_schedule.md: the round constants, KeyExpansion word by word and byte by byte, and the
command KEYLD. -/

namespace Sys2Proof.Machine

/-! The words of KeyExpansion (R201). -/

@[simp] theorem scheduleWords_length (k : Block) (n : Nat) : (scheduleWords k n).length = n + 4 := by
  induction n with
  | zero => rfl
  | succ n ih => rw [scheduleWords, List.length_cons, ih, Nat.add_right_comm]

/-- Later turns of the loop only add words in front. -/
theorem scheduleWords_suffix_of_le (k : Block) {m n : Nat} (h : m ≤ n) : scheduleWords k m <:+ scheduleWords k n := by
  induction n, h using Nat.le_induction with
  | base => exact List.suffix_refl _
  | succ n _ ih => exact ih.trans (List.suffix_cons _ _)

/-- The words after n turns of the loop, the latest first, are `w[n+3], …, w[0]`. -/
theorem keyWords_getD_of_turn (k : Block) {n j : Nat} (hn : n ≤ 40) (hj : j < n + 4) :
    (keyWords k).getD (n + 3 - j) Column.zero = (scheduleWords k n).getD j Column.zero := by
  obtain ⟨later, hlater⟩ := List.reverse_prefix.2 (scheduleWords_suffix_of_le k hn)
  have hlast : (scheduleWords k n).length - 1 - (n + 3 - j) = j := by
    rw [scheduleWords_length]
    omega
  have hlt : n + 3 - j < (scheduleWords k n).length := by
    rw [scheduleWords_length]
    omega
  rw [keyWords, ← hlater, List.getD_append _ _ _ _ (by rwa [List.length_reverse]), List.getD_eq_getElem?_getD,
    List.getElem?_reverse hlt, hlast, List.getD_eq_getElem?_getD]

/-- The loop of R201, word by word. -/
theorem keyWords_getD_add_four (k : Block) {n : Nat} (hn : n < 40) :
    (keyWords k).getD (n + 4) Column.zero =
      nextWord (n + 4) ((keyWords k).getD (n + 3) Column.zero) ((keyWords k).getD n Column.zero) := by
  have hnew := keyWords_getD_of_turn k (n := n + 1) (j := 0) hn (by omega)
  have hprev := keyWords_getD_of_turn k (n := n) (j := 0) hn.le (by omega)
  have hback := keyWords_getD_of_turn k (n := n) (j := 3) hn.le (by omega)
  exact hnew.trans (congrArg₂ (nextWord (n + 4)) hprev.symm hback.symm)

/-! The bytes of a word (R201). -/

theorem colByte_rotWord (t : Column) {j : Nat} (hj : j < 4) : colByte (rotWord t) j = colByte t ((j + 1) % 4) :=
  colByte_columnOf _ hj

theorem colByte_subWord (t : Column) {j : Nat} (hj : j < 4) : colByte (subWord t) j = sboxOf (colByte t j) :=
  colByte_columnOf _ hj

theorem colByte_xorFirst (t : Column) (c : Byte) {j : Nat} (hj : j < 4) :
    colByte (xorFirst t c) j = colByte t j ^^^ (if j = 0 then c else 0) := by
  rw [xorFirst, colByte_columnOf _ hj]
  split
  · rename_i h
    rw [h]
  · exact BitVec.xor_zero.symm

theorem colByte_xorColumn (a b : Column) {j : Nat} (hj : j < 4) :
    colByte (xorColumn a b) j = colByte a j ^^^ colByte b j :=
  colByte_columnOf _ hj

theorem colByte_nextWord (i : Nat) (prev back4 : Column) {j : Nat} (hj : j < 4) :
    colByte (nextWord i prev back4) j = colByte back4 j ^^^
      (if i % 4 = 0 then sboxOf (colByte prev ((j + 1) % 4)) ^^^ (if j = 0 then rcon (i / 4) else 0)
        else colByte prev j) := by
  rw [nextWord, colByte_xorColumn _ _ hj]
  split
  · rw [colByte_xorFirst _ _ hj, colByte_subWord _ hj, colByte_rotWord _ hj]
  · rfl

/-! The round keys (R202). -/

theorem roundKeyAt_expandKey (k : Block) {r : Nat} (hr : r ≤ 10) : roundKeyAt (expandKey k) r = roundKey k r := by
  interval_cases r <;> rfl

theorem byteAt_roundKey (k : Block) (r : Nat) {i : Nat} (hi : i < 16) :
    byteAt (roundKey k r) i = colByte ((keyWords k).getD (4 * r + i / 4) Column.zero) (i % 4) :=
  byteAt_blockOf _ hi

/-! The command KEYLD (R206). -/

/-- A running command ends with the error of its first failing check. -/
theorem exec_of_firstFailure {i : Instr} {s : State} {l : Latch} {e : CmdError} (hl : s.running = some l)
    (hf : firstFailure i s l = some e) : exec i s = .next (s.failed e) := by
  rw [exec_eq hl, answer, hf]

theorem passes_keyld {s : State} {l : Latch} (hlen : l.len = 16) (h : l.src.toNat + 16 ≤ s.cfg.dmemSize) :
    passes .keyld s l = true := by
  simp [passes, checks, rangeFails_eq_false_iff, hlen, h]

/-- The length is the first check of KEYLD, so SRC does not matter (R321). -/
theorem firstFailure_keyld_of_len_ne {l : Latch} (hlen : l.len ≠ 16) (s : State) :
    firstFailure .keyld s l = some (.invalidKeyLength l.len) := by
  have hlen : l.len.toNat ≠ 16 := fun h => hlen (BitVec.eq_of_toNat_eq h)
  simp [firstFailure, checks, hlen]

/-! The obligations. -/

/-- Settles O26: with the right length and range the checks of KEYLD pass and it ends with its effect; with another
length its first check fails. -/
theorem keyldLoadsSchedule : Obligations.KeyldLoadsSchedule := fun s _ hl =>
  ⟨fun hlen h => ⟨_, fun _ hj => byteAt_blockOfBytes_readBytes _ _ hj, exec_of_passes hl (passes_keyld hlen h)⟩,
    fun hlen => exec_of_firstFailure hl (firstFailure_keyld_of_len_ne hlen s)⟩

/-- Settles O31: the first four words are the key's (`keyWords_getD`), and each later one is the loop's next word
(`keyWords_getD_add_four`), byte by byte. -/
theorem keyExpansionRecurrence : Obligations.KeyExpansionRecurrence := by
  intro k
  dsimp only
  refine ⟨List.length_reverse.trans (scheduleWords_length k 40), fun i hi j hj => ?_, fun i hlo hhi j hj => ?_⟩
  · rw [keyWords_getD k hi, colByte_columnOf _ hj]
  · obtain ⟨n, rfl⟩ := Nat.exists_eq_add_of_le' hlo
    rw [keyWords_getD_add_four k (by omega), colByte_nextWord _ _ _ hj, Nat.add_sub_cancel]
    rfl

/-- Settles O32: the schedule holds the round keys in order, and each joins its four words. -/
theorem roundKeysJoinWords : Obligations.RoundKeysJoinWords := by
  refine fun k => ⟨roundKeyAt_expandKey_zero k, fun r hr i hi => ?_⟩
  rw [roundKeyAt_expandKey k hr, byteAt_roundKey k r hi]

/-- Settles O33: the table of R203, entry by entry. -/
theorem roundConstantsDouble : Obligations.RoundConstantsDouble := by
  refine ⟨rfl, fun j hlo hhi => ?_, rfl, rfl⟩
  interval_cases j <;> rfl

end Sys2Proof.Machine
end

section
/-! The statements of spec/43_cipher.md: the rounds of Cipher and InvCipher, and that the two are inverse permutations
of the blocks. -/

namespace Sys2Proof.Machine

/-! The block after each round (R220, R221). -/

/-- The block after round r of Cipher, for r up to 9 (R220). -/
def cipherState (rk : Schedule) (b : Block) : Nat → Block
  | 0 => addRoundKey b (roundKeyAt rk 0)
  | r + 1 => cipherRound (cipherState rk b r) (roundKeyAt rk (r + 1))

/-- The block of InvCipher after its opening steps with RK[10] and n rounds, the first of them with RK[9] (R221). -/
def invCipherState (rk : Schedule) (b : Block) : Nat → Block
  | 0 => invSubBytes (invShiftRows (addRoundKey b (roundKeyAt rk 10)))
  | n + 1 => invCipherRound (invCipherState rk b n) (roundKeyAt rk (9 - n))

theorem cipher_eq_of_cipherState (rk : Schedule) (b : Block) :
    cipher rk b = addRoundKey (shiftRows (subBytes (cipherState rk b 9))) (roundKeyAt rk 10) :=
  rfl

theorem invCipher_eq_of_invCipherState (rk : Schedule) (b : Block) :
    invCipher rk b = addRoundKey (invCipherState rk b 9) (roundKeyAt rk 0) :=
  rfl

theorem cipherState_of_pos (rk : Schedule) (b : Block) {r : Nat} (hr : 1 ≤ r) :
    cipherState rk b r = cipherRound (cipherState rk b (r - 1)) (roundKeyAt rk r) := by
  obtain ⟨n, rfl⟩ := Nat.exists_eq_add_of_le' hr
  rfl

/-- Counted by its round key, round r of InvCipher follows round r + 1. -/
theorem invCipherState_ten_sub (rk : Schedule) (b : Block) {r : Nat} (hr : r ≤ 9) :
    invCipherState rk b (10 - r) = invCipherRound (invCipherState rk b (10 - (r + 1))) (roundKeyAt rk r) := by
  rw [show 10 - r = (10 - (r + 1)) + 1 by omega, invCipherState, show 9 - (10 - (r + 1)) = r by omega]

/-! Each round undoes the other (R222). -/

theorem addRoundKey_addRoundKey (b k : Block) : addRoundKey (addRoundKey b k) k = b := xorBlock_xorBlock_cancel b k

theorem invCipherRound_cipherRound (k s : Block) : invCipherRound (cipherRound s k) k = s := by
  rw [invCipherRound, cipherRound, addRoundKey_addRoundKey, invMixColumns_mixColumns, invShiftRows_shiftRows,
    invSubBytes_subBytes]

theorem cipherRound_invCipherRound (k s : Block) : cipherRound (invCipherRound s k) k = s := by
  rw [cipherRound, invCipherRound, subBytes_invSubBytes, shiftRows_invShiftRows, mixColumns_invMixColumns,
    addRoundKey_addRoundKey]

/-- When each step of g undoes the step of f with the same key, g undoes a whole run of f by taking the keys in the
reverse order. -/
theorem foldl_reverse_foldl {α κ : Type} {f g : α → κ → α} (h : ∀ k a, g (f a k) k = a) (ks : List κ) (a : α) :
    ks.reverse.foldl g (ks.foldl f a) = a := by
  induction ks generalizing a with
  | nil => rfl
  | cons k ks ih => rw [List.foldl_cons, List.reverse_cons, List.foldl_append, ih, List.foldl_cons, h, List.foldl_nil]

theorem invCipherRounds_cipherRounds (rk : Schedule) (rs : List Nat) (s : Block) :
    rs.reverse.foldl (fun s r => invCipherRound s (roundKeyAt rk r))
      (rs.foldl (fun s r => cipherRound s (roundKeyAt rk r)) s) = s :=
  foldl_reverse_foldl (fun r => invCipherRound_cipherRound (roundKeyAt rk r)) rs s

theorem cipherRounds_invCipherRounds (rk : Schedule) (rs : List Nat) (s : Block) :
    rs.reverse.foldl (fun s r => cipherRound s (roundKeyAt rk r))
      (rs.foldl (fun s r => invCipherRound s (roundKeyAt rk r)) s) = s :=
  foldl_reverse_foldl (fun r => cipherRound_invCipherRound (roundKeyAt rk r)) rs s

theorem invCipher_cipher (rk : Schedule) : Function.LeftInverse (invCipher rk) (cipher rk) := fun b => by
  have hrounds := invCipherRounds_cipherRounds rk [1, 2, 3, 4, 5, 6, 7, 8, 9] (addRoundKey b (roundKeyAt rk 0))
  rw [invCipher, cipher, addRoundKey_addRoundKey, invShiftRows_shiftRows, invSubBytes_subBytes]
  exact (congrArg (addRoundKey · (roundKeyAt rk 0)) hrounds).trans (addRoundKey_addRoundKey b _)

theorem cipher_invCipher (rk : Schedule) : Function.RightInverse (invCipher rk) (cipher rk) := fun b => by
  have hrounds := cipherRounds_invCipherRounds rk [9, 8, 7, 6, 5, 4, 3, 2, 1]
    (invSubBytes (invShiftRows (addRoundKey b (roundKeyAt rk 10))))
  rw [cipher, invCipher, addRoundKey_addRoundKey]
  refine (congrArg (fun s => addRoundKey (shiftRows (subBytes s)) (roundKeyAt rk 10)) hrounds).trans ?_
  rw [subBytes_invSubBytes, shiftRows_invShiftRows, addRoundKey_addRoundKey]

/-! The obligation. -/

/-- Settles O37: the chains are `cipherState` and `invCipherState`, and the rounds of one function undo those of the
other from the last to the first (`foldl_reverse_foldl`), so each is a two-sided inverse of the other. -/
theorem invCipherInvertsCipher : Obligations.InvCipherInvertsCipher := by
  intro rk
  have hleft := invCipher_cipher rk
  have hright := cipher_invCipher rk
  exact ⟨fun b => ⟨cipherState rk b, rfl, fun r hr _ => cipherState_of_pos rk b hr, cipher_eq_of_cipherState rk b⟩,
    fun b => ⟨fun r => invCipherState rk b (10 - r), rfl, fun r _ hr => invCipherState_ten_sub rk b hr,
      invCipher_eq_of_invCipherState rk b⟩,
    commute_invShiftRows invSubBytes_commute_shiftRows, hleft, hright, ⟨hleft.injective, hright.surjective⟩,
    ⟨hright.injective, hleft.surjective⟩⟩

end Sys2Proof.Machine
end

section
/-! The statements of spec/44_mode_control.md: the two checks on DMEM ranges, which commands raise NO_KEY and WRONG_MODE,
the configuration commands, and the frame of the data commands. -/

namespace Sys2Proof.Machine

/-! The range and overlap checks (R241). -/

theorem overlapFails_eq_false_iff (s d n : Nat) :
    overlapFails s d n = false ↔ n = 0 ∨ s = d ∨ s + n ≤ d ∨ d + n ≤ s := by
  simp [overlapFails]
  omega

/-- A range ends inside DMEM exactly when its last byte, and so every byte, is inside. -/
theorem range_inside_iff (a n size : Nat) : (n = 0 ∨ a + n ≤ size) ↔ ∀ k < n, a + k < size := by
  refine ⟨fun h k hk => by omega, fun h => ?_⟩
  have hlast := h (n - 1)
  omega

/-- Ranges that overlap share the first byte of the one that starts later. -/
theorem ranges_disjoint_iff (s d n : Nat) :
    (n = 0 ∨ s + n ≤ d ∨ d + n ≤ s) ↔ ∀ j < n, ∀ k < n, s + j ≠ d + k := by
  refine ⟨fun h j hj k hk => by omega, fun h => ?_⟩
  by_contra hoverlap
  obtain hle | hle := Nat.le_total s d
  · exact h (d - s) (by omega) 0 (by omega) (by omega)
  · exact h 0 (by omega) (s - d) (by omega) (by omega)

/-! Which error a command reports. -/

/-- The error that ERRCODE and ERRLEN report (R320, R325). Code 8 shares its branch with the codes that no error has. -/
def reportedError (code : BitVec 4) (len : Word) : CmdError :=
  match code.toNat with
  | 1 => .invalidKeyLength len
  | 2 => .invalidIvLength len
  | 3 => .invalidInputLength len
  | 4 => .illegalCommand
  | 5 => .noKey
  | 6 => .wrongMode
  | 7 => .range
  | _ => .overlap

theorem reportedError_code_length (e : CmdError) : reportedError e.code e.length = e := by
  cases e <;> rfl

/-- The error fields tell two errors apart. -/
theorem failed_injective (s : State) : Function.Injective fun e => s.failed e := fun e e' h => by
  have hfields := congrArg (fun t : State => reportedError t.errcode t.errlen) h
  simpa [reportedError_code_length] using hfields

/-- From ERR = 0, a running command ends as `raise Error(e)` leaves it exactly when e is its first failing check's. -/
theorem exec_eq_failed_iff {i : Instr} {s : State} {l : Latch} (hl : s.running = some l) (herr : s.err = false)
    (e : CmdError) : exec i s = .next (s.failed e) ↔ firstFailure i s l = some e := by
  refine ⟨fun h => ?_, exec_of_firstFailure hl⟩
  cases hf : firstFailure i s l with
  | some e' =>
    rw [exec_of_firstFailure hl hf] at h
    rw [failed_injective s (Host.Outcome.next.inj h)]
  | none =>
    rw [exec_of_passes hl ((firstFailure_eq_none_iff i s l).1 hf)] at h
    have herr' := congrArg State.err (Host.Outcome.next.inj h)
    simp [herr] at herr'

theorem mem_checks_of_firstFailure {i : Instr} {s : State} {l : Latch} {e : CmdError}
    (h : firstFailure i s l = some e) : (true, e) ∈ checks i s l := by
  obtain ⟨⟨b, e'⟩, hfind, rfl⟩ := Option.map_eq_some_iff.1 h
  obtain rfl : b = true := List.find?_some hfind
  exact List.mem_of_find?_eq_some hfind

/-! NO_KEY (R242). -/

theorem needsKey_of_mem_checks {i : Instr} {s : State} {l : Latch} {b : Bool} (h : (b, .noKey) ∈ checks i s l) :
    needsKey i = true := by
  cases i
  case rdrk | ark | encb | decb | cfgecb | cfgcbc | cfgctr => rfl
  all_goals simp [checks] at h

/-- The key check comes first, or after an index check that a well-formed command passes. -/
theorem firstFailure_of_noKey {i : Instr} {s : State} (hi : needsKey i = true) (hw : i.wellFormed = true)
    (hk : s.keyv = false) (l : Latch) : firstFailure i s l = some .noKey := by
  cases i
  case rdrk r | ark r =>
    have hr : ridxLegal r = true := hw
    simp [firstFailure, checks, hr, hk]
  case encb | decb | cfgecb | cfgcbc | cfgctr => simp [firstFailure, checks, hk]
  all_goals nomatch hi

theorem firstFailure_eq_noKey_iff {i : Instr} {s : State} (hw : i.wellFormed = true) (hk : s.keyv = false) (l : Latch) :
    firstFailure i s l = some .noKey ↔ needsKey i = true :=
  ⟨fun h => needsKey_of_mem_checks (mem_checks_of_firstFailure h), fun hi => firstFailure_of_noKey hi hw hk l⟩

theorem needsKey_iff (i : Instr) :
    needsKey i = true ↔
      (∃ r, i = .rdrk r ∨ i = .ark r) ∨ i = .encb ∨ i = .decb ∨ i = .cfgecb ∨ i = .cfgcbc ∨ i = .cfgctr := by
  cases i <;> simp [needsKey]

/-! WRONG_MODE (R243). -/

theorem requiredMode_of_mem_checks {i : Instr} {s : State} {l : Latch} {b : Bool} (h : (b, .wrongMode) ∈ checks i s l) :
    ∃ m, requiredMode i = some m ∧ b = decide (s.mode ≠ m) := by
  cases i
  case setiv | getiv | rdctr | ecbenc | ecbdec | cbcenc | cbcdec | ctrenc | ctrdec =>
    exact ⟨_, rfl, by simpa [checks] using h⟩
  all_goals simp [checks] at h

/-- The mode check comes before every other. -/
theorem firstFailure_of_wrongMode {i : Instr} {s : State} {m : Mode} (hi : requiredMode i = some m) (hm : s.mode ≠ m)
    (l : Latch) : firstFailure i s l = some .wrongMode := by
  cases i
  case setiv | getiv | rdctr | ecbenc | ecbdec | cbcenc | cbcdec | ctrenc | ctrdec =>
    cases hi
    simp [firstFailure, checks, hm]
  all_goals nomatch hi

theorem firstFailure_eq_wrongMode_iff (i : Instr) (s : State) (l : Latch) :
    firstFailure i s l = some .wrongMode ↔ ∃ m, requiredMode i = some m ∧ s.mode ≠ m := by
  refine ⟨fun h => ?_, fun ⟨_, hi, hm⟩ => firstFailure_of_wrongMode hi hm l⟩
  obtain ⟨m, hi, hm⟩ := requiredMode_of_mem_checks (mem_checks_of_firstFailure h)
  exact ⟨m, hi, of_decide_eq_true hm.symm⟩

theorem exists_requiredMode_iff (i : Instr) (p : Mode → Prop) :
    (∃ m, requiredMode i = some m ∧ p m) ↔
      ((i = .setiv ∨ i = .getiv ∨ i = .cbcenc ∨ i = .cbcdec) ∧ p .cbc) ∨
      ((i = .rdctr ∨ i = .ctrenc ∨ i = .ctrdec) ∧ p .ctr) ∨ ((i = .ecbenc ∨ i = .ecbdec) ∧ p .ecb) := by
  cases i <;> simp [requiredMode]

/-! The storing commands' checks (R207, R248, R249). -/

section storing

variable {s : State} {l : Latch} (hdst : l.dst.toNat + 16 ≤ s.cfg.dmemSize)
include hdst

theorem passes_stst : passes .stst s l = true := by
  simp [passes, checks, rangeFails_eq_false_iff, hdst]

theorem passes_rdrk (hk : s.keyv = true) {r : BitVec 4} (hr : r.toNat ≤ 10) : passes (.rdrk r) s l = true := by
  simp [passes, checks, rangeFails_eq_false_iff, hdst, hk, ridxLegal, hr]

theorem passes_getiv (hm : s.mode = .cbc) : passes .getiv s l = true := by
  simp [passes, checks, rangeFails_eq_false_iff, hdst, hm]

theorem passes_rdctr (hm : s.mode = .ctr) : passes .rdctr s l = true := by
  simp [passes, checks, rangeFails_eq_false_iff, hdst, hm]

end storing

/-! The configuration commands' checks and the seed of CFGCTR (R244 to R247). -/

theorem passes_cfgecb {s : State} (hk : s.keyv = true) (l : Latch) : passes .cfgecb s l = true := by
  simp [passes, checks, hk]

theorem passes_cfgctr {s : State} {l : Latch} (hk : s.keyv = true)
    (h : l.len = 0 ∨ l.src.toNat + l.len.toNat ≤ s.cfg.dmemSize) : passes .cfgctr s l = true := by
  have hsrc : l.len.toNat = 0 ∨ l.src.toNat + l.len.toNat ≤ s.cfg.dmemSize := h.imp_left (congrArg BitVec.toNat)
  simp [passes, checks, hk, (rangeFails_eq_false_iff _ _ _).2 hsrc]

theorem passes_cfgcbc {s : State} {l : Latch} (hk : s.keyv = true) (hlen : l.len = 16)
    (h : l.src.toNat + 16 ≤ s.cfg.dmemSize) : passes .cfgcbc s l = true := by
  simp [passes, checks, rangeFails_eq_false_iff, hk, hlen, h]

theorem passes_setiv {s : State} {l : Latch} (hm : s.mode = .cbc) (hlen : l.len = 16)
    (h : l.src.toNat + 16 ≤ s.cfg.dmemSize) : passes .setiv s l = true := by
  simp [passes, checks, rangeFails_eq_false_iff, hm, hlen, h]

theorem firstFailure_cfgcbc_of_len_ne {s : State} {l : Latch} (hk : s.keyv = true) (hlen : l.len ≠ 16) :
    firstFailure .cfgcbc s l = some (.invalidIvLength l.len) := by
  have hlen : l.len.toNat ≠ 16 := fun h => hlen (BitVec.eq_of_toNat_eq h)
  simp [firstFailure, checks, hk, hlen]

theorem firstFailure_setiv_of_len_ne {s : State} {l : Latch} (hm : s.mode = .cbc) (hlen : l.len ≠ 16) :
    firstFailure .setiv s l = some (.invalidIvLength l.len) := by
  have hlen : l.len.toNat ≠ 16 := fun h => hlen (BitVec.eq_of_toNat_eq h)
  simp [firstFailure, checks, hm, hlen]

/-- Reducing `BE` mod 256^n keeps the last n bytes. -/
theorem bigEndian_mod_pow (bs : List Byte) (n : Nat) :
    bigEndian bs % 256 ^ n = bigEndian (bs.drop (bs.length - n)) := by
  rw [bigEndian_eq_ofDigits, Nat.ofDigits_mod_pow_eq_ofDigits_take n (by decide) _ (digits_lt_256 bs), ← List.map_take,
    List.take_reverse, ← bigEndian_eq_ofDigits]

/-! The data commands (R250, R251). -/

/-- The last three checks of the frame, from the ranges as addresses. -/
theorem dataRanges_pass {s : State} {l : Latch}
    (h : l.len = 0 ∨
      (l.src.toNat + l.len.toNat ≤ s.cfg.dmemSize ∧ l.dst.toNat + l.len.toNat ≤ s.cfg.dmemSize ∧
        (l.src = l.dst ∨ l.src.toNat + l.len.toNat ≤ l.dst.toNat ∨ l.dst.toNat + l.len.toNat ≤ l.src.toNat))) :
    rangeFails s l.src.toNat l.len.toNat = false ∧ rangeFails s l.dst.toNat l.len.toNat = false ∧
      overlapFails l.src.toNat l.dst.toNat l.len.toNat = false := by
  rw [rangeFails_eq_false_iff, rangeFails_eq_false_iff, overlapFails_eq_false_iff]
  obtain hlen | ⟨hsrc, hdst, hranges⟩ := h
  · have hlen : l.len.toNat = 0 := congrArg BitVec.toNat hlen
    exact ⟨.inl hlen, .inl hlen, .inl hlen⟩
  · exact ⟨.inr hsrc, .inr hdst, .inr (hranges.imp_left (congrArg BitVec.toNat))⟩

section data

variable {s : State} {l : Latch} (hsrc : rangeFails s l.src.toNat l.len.toNat = false)
  (hdst : rangeFails s l.dst.toNat l.len.toNat = false)
  (hoverlap : overlapFails l.src.toNat l.dst.toNat l.len.toNat = false)
include hsrc hdst hoverlap

theorem passes_ecbenc (hm : s.mode = .ecb) (hlen : l.len.toNat % 16 = 0) : passes .ecbenc s l = true := by
  simp [passes, checks, hm, hlen, hsrc, hdst, hoverlap]

theorem passes_cbcenc (hm : s.mode = .cbc) (hlen : l.len.toNat % 16 = 0) : passes .cbcenc s l = true := by
  simp [passes, checks, hm, hlen, hsrc, hdst, hoverlap]

theorem passes_ctrenc (hm : s.mode = .ctr) : passes .ctrenc s l = true := by
  simp [passes, checks, hm, hsrc, hdst, hoverlap]

end data

theorem effect_of_dataOutput {i : Instr} {s : State} {l : Latch} {out : List Byte × Counter}
    (h : dataOutput i s (s.dmem.readBytes l.src.toNat l.len.toNat) = some out) : effect i s l = dataEffect s l out := by
  cases i
  case ecbenc | ecbdec | cbcenc | cbcdec | ctrenc | ctrdec => cases h; rfl
  all_goals nomatch h

/-- The mode functions keep the length of an input whose length passed the checks (R251). -/
theorem dataOutput_length {i : Instr} {s : State} {l : Latch} {inp : List Byte} {out : List Byte × Counter}
    (hp : passes i s l = true) (hinp : inp.length = l.len.toNat) (h : dataOutput i s inp = some out) :
    out.1.length = l.len.toNat := by
  cases i
  case ecbenc | ecbdec | cbcenc | cbcdec =>
    have hlen : inp.length % 16 = 0 := by simp_all [passes, checks]
    cases h
    simp [ecbEncrypt_length _ hlen, ecbDecrypt_length _ hlen, cbcEncrypt_length _ _ hlen, cbcDecrypt_length _ _ hlen,
      hinp]
  case ctrenc | ctrdec =>
    cases h
    exact (ctrCrypt_length _ _ _).trans hinp
  all_goals nomatch h

/-! The obligations. -/

/-- Settles O30: the command ends with `dataEffect` of its output, which is LEN bytes long and reads back at DST and
nowhere else. -/
theorem dataCommandsWriteOutput : Obligations.DataCommandsWriteOutput := by
  intro i s l out c hl hp hout
  have hlen : out.length = l.len.toNat := dataOutput_length hp (Memory.readBytes_length _ _ _) hout
  refine ⟨s.dmem.writeBytes l.dst.toNat out, ?_, hlen, fun k hk => ?_, fun x hx =>
    Memory.read_writeBytes_outside _ _ (by rwa [hlen])⟩
  · rw [exec_of_passes hl hp, effect_of_dataOutput hout]
    rfl
  · rw [← hlen] at hk
    rw [Memory.read_writeBytes_inside _ _ _ hk, List.getD_eq_getElem _ _ hk]

/-- Settles O29: the counter is the seed mod 2^128 = 256^16, and that keeps the last 16 bytes (`bigEndian_mod_pow`). -/
theorem cfgctrLoadsSeed : Obligations.CfgctrLoadsSeed := by
  intro s l hl hk h
  have hmod := bigEndian_mod_pow (s.dmem.readBytes l.src.toNat l.len.toNat) 16
  rw [Memory.readBytes_length] at hmod
  exact ⟨_, exec_of_passes hl (passes_cfgctr hk h), BitVec.toNat_ofNat _ _, (BitVec.toNat_ofNat _ _).trans hmod⟩

/-- Settles O28: with the right length and range the checks of both commands pass and they end with their effects; with
another length that check is the first to fail. -/
theorem ivCommandsLoadIv : Obligations.IvCommandsLoadIv := fun _ _ hl =>
  ⟨fun hlen h => ⟨_, fun _ hj => byteAt_blockOfBytes_readBytes _ _ hj,
    fun hk => exec_of_passes hl (passes_cfgcbc hk hlen h), fun hm => exec_of_passes hl (passes_setiv hm hlen h)⟩,
    fun hlen => ⟨fun hk => exec_of_firstFailure hl (firstFailure_cfgcbc_of_len_ne hk hlen),
      fun hm => exec_of_firstFailure hl (firstFailure_setiv_of_len_ne hm hlen)⟩⟩

/-- Settles O25: check by check; the two data commands of a mode have the same checks. -/
theorem storingAndDataCommandsPassChecks : Obligations.StoringAndDataCommandsPassChecks := by
  refine fun s l => ⟨fun hdst => ⟨passes_stst hdst, fun hk _ hr => passes_rdrk hdst hk hr, passes_getiv hdst,
    passes_rdctr hdst⟩, fun h => ?_⟩
  obtain ⟨hsrc, hdst, hoverlap⟩ := dataRanges_pass h
  refine ⟨fun hm hlen => ?_, fun hm hlen => ?_, fun hm => ?_⟩
  · have hp := passes_ecbenc hsrc hdst hoverlap hm hlen
    exact ⟨hp, hp⟩
  · have hp := passes_cbcenc hsrc hdst hoverlap hm hlen
    exact ⟨hp, hp⟩
  · have hp := passes_ctrenc hsrc hdst hoverlap hm
    exact ⟨hp, hp⟩

/-- Settles O15: the state named is that of `raise Error(NO_KEY)`, so NO_KEY is the first failing check's error
(`exec_eq_failed_iff`), which it is for the commands of `needsKey`. -/
theorem noKeyIsRaisedBySevenCommands : Obligations.NoKeyIsRaisedBySevenCommands := by
  intro i s hw hb herr hk
  obtain ⟨l, hl⟩ := (busy_eq_true_iff s).1 hb
  calc exec i s = .next (s.failed .noKey)
    _ ↔ firstFailure i s l = some .noKey := exec_eq_failed_iff hl herr .noKey
    _ ↔ needsKey i = true := firstFailure_eq_noKey_iff hw hk l
    _ ↔ _ := needsKey_iff i

/-- Settles O16: as for NO_KEY, with the commands and modes of `requiredMode`. -/
theorem wrongModeIsRaisedByTable : Obligations.WrongModeIsRaisedByTable := by
  intro i s hb herr
  obtain ⟨l, hl⟩ := (busy_eq_true_iff s).1 hb
  calc exec i s = .next (s.failed .wrongMode)
    _ ↔ firstFailure i s l = some .wrongMode := exec_eq_failed_iff hl herr .wrongMode
    _ ↔ ∃ m, requiredMode i = some m ∧ s.mode ≠ m := firstFailure_eq_wrongMode_iff i s l
    _ ↔ _ := exists_requiredMode_iff i (s.mode ≠ ·)

/-- Settles O17: the checks as inequalities between addresses, and those as statements about every byte. -/
theorem rangeAndOverlapChecks : Obligations.RangeAndOverlapChecks := by
  refine ⟨fun s a n => (rangeFails_eq_false_iff s a n).trans (range_inside_iff a n _), fun s d n => ?_⟩
  rw [overlapFails_eq_false_iff, ← ranges_disjoint_iff, or_left_comm]

/-- Settles O27: NOP has no check and CFGECB only that of the key, so each ends with its effect. -/
theorem nopAndCfgecb : Obligations.NopAndCfgecb := by
  intro s hb
  obtain ⟨l, hl⟩ := (busy_eq_true_iff s).1 hb
  exact ⟨exec_of_passes hl rfl, fun hk => exec_of_passes hl (passes_cfgecb hk l)⟩

end Sys2Proof.Machine
end

section
/-! The statements of spec/45_ecb.md: each ECB output block is the cipher of its input block, and decryption gives back
what encryption took, in all three modes. -/

namespace Sys2Proof.Machine

/-! Byte strings that begin with a block. -/

theorem take_blockBytes_append (b : Block) (bs : List Byte) : (blockBytes b ++ bs).take 16 = blockBytes b :=
  List.take_left' (blockBytes_length b)

theorem drop_blockBytes_append (b : Block) (bs : List Byte) : (blockBytes b ++ bs).drop 16 = bs :=
  List.drop_left' (blockBytes_length b)

theorem blockBytes_take_append_drop {bs : List Byte} (h : 16 ≤ bs.length) :
    blockBytes (blockOfBytes (bs.take 16)) ++ bs.drop 16 = bs := by
  rw [blockBytes_blockOfBytes _ (List.length_take_of_le h), List.take_append_drop]

theorem blockNo_zero (bs : List Byte) : blockNo bs 0 = blockOfBytes (bs.take 16) := rfl

theorem blockNo_succ (bs : List Byte) (i : Nat) : blockNo bs (i + 1) = blockNo (bs.drop 16) i := by
  rw [blockNo, blockNo, List.drop_drop, Nat.mul_succ, Nat.add_comm]

theorem blockNo_blockBytes_append_zero (b : Block) (bs : List Byte) : blockNo (blockBytes b ++ bs) 0 = b := by
  rw [blockNo_zero, take_blockBytes_append, blockOfBytes_blockBytes]

theorem blockNo_blockBytes_append_succ (b : Block) (bs : List Byte) (i : Nat) :
    blockNo (blockBytes b ++ bs) (i + 1) = blockNo bs i := by
  rw [blockNo_succ, drop_blockBytes_append]

/-! ECB and CBC, block by block. -/

theorem blockNo_ecbBlocks (f : Block → Block) {n i : Nat} (h : i < n) (inp : List Byte) :
    blockNo (ecbBlocks f n inp) i = f (blockNo inp i) := by
  induction n generalizing i inp with
  | zero => omega
  | succ n ih =>
    cases i with
    | zero => rw [ecbBlocks, blockNo_blockBytes_append_zero, blockNo_zero]
    | succ i => rw [ecbBlocks, blockNo_blockBytes_append_succ, ih (by omega), blockNo_succ]

/-- A block function undone on each block is undone on the string. -/
theorem ecbBlocks_ecbBlocks {f g : Block → Block} (h : Function.LeftInverse g f) {n : Nat} {inp : List Byte}
    (hlen : inp.length = 16 * n) : ecbBlocks g n (ecbBlocks f n inp) = inp := by
  induction n generalizing inp with
  | zero => exact (List.length_eq_zero_iff.1 hlen).symm
  | succ n ih =>
    have hrest : (inp.drop 16).length = 16 * n := by rw [List.length_drop]; omega
    rw [ecbBlocks, ecbBlocks, take_blockBytes_append, drop_blockBytes_append, blockOfBytes_blockBytes, h, ih hrest,
      blockBytes_take_append_drop (by omega)]

/-- Both loops chain the same ciphertext blocks, so the XOR with `prev` cancels once the cipher is undone. -/
theorem cbcDecBlocks_cbcEncBlocks (rk : Schedule) {n : Nat} (prev : Block) {inp : List Byte}
    (hlen : inp.length = 16 * n) : cbcDecBlocks rk n prev (cbcEncBlocks rk n prev inp) = inp := by
  induction n generalizing prev inp with
  | zero => exact (List.length_eq_zero_iff.1 hlen).symm
  | succ n ih =>
    have hrest : (inp.drop 16).length = 16 * n := by rw [List.length_drop]; omega
    rw [cbcEncBlocks, cbcDecBlocks, take_blockBytes_append, drop_blockBytes_append, blockOfBytes_blockBytes,
      invCipher_cipher, xorBlock_xorBlock_cancel, ih _ hrest, blockBytes_take_append_drop (by omega)]

theorem ecbDecrypt_ecbEncrypt (rk : Schedule) {inp : List Byte} (h : inp.length % 16 = 0) :
    ecbDecrypt rk (ecbEncrypt rk inp) = inp := by
  rw [ecbDecrypt, ecbEncrypt_length rk h]
  exact ecbBlocks_ecbBlocks (invCipher_cipher rk) (by omega)

theorem cbcDecrypt_cbcEncrypt (rk : Schedule) (iv : Block) {inp : List Byte} (h : inp.length % 16 = 0) :
    cbcDecrypt rk iv (cbcEncrypt rk iv inp) = inp := by
  rw [cbcDecrypt, cbcEncrypt_length rk iv h]
  exact cbcDecBlocks_cbcEncBlocks rk iv (by omega)

/-! CTR as one XOR with a keystream (R300). -/

/-- The keystream of n chunks from counter c. -/
def ctrKeystream (rk : Schedule) : Nat → Counter → List Byte
  | 0, _ => []
  | n + 1, c => blockBytes (cipher rk (toBE16 c)) ++ ctrKeystream rk n (c + 1)

theorem ctrKeystream_length (rk : Schedule) (n : Nat) (c : Counter) : (ctrKeystream rk n c).length = 16 * n := by
  induction n generalizing c with
  | zero => rfl
  | succ n ih => rw [ctrKeystream, List.length_append, blockBytes_length, ih, Nat.mul_succ, Nat.add_comm]

theorem xorBytes_append_right (as k ks : List Byte) :
    xorBytes as (k ++ ks) = xorBytes (as.take k.length) k ++ xorBytes (as.drop k.length) ks := by
  induction k generalizing as with
  | nil => simp [xorBytes]
  | cons b k ih =>
    cases as with
    | nil => rfl
    | cons a as => exact congrArg ((a ^^^ b) :: ·) (ih as)

theorem xorBytes_xorBytes_cancel {as ks : List Byte} (h : as.length ≤ ks.length) :
    xorBytes (xorBytes as ks) ks = as := by
  apply List.ext_getElem
  · simp [xorBytes, h]
  · intro i _ _
    simp [xorBytes]

theorem ctrChunks_eq_xorBytes (rk : Schedule) (n : Nat) (c : Counter) (inp : List Byte) :
    (ctrChunks rk n c inp).1 = xorBytes inp (ctrKeystream rk n c) := by
  induction n generalizing c inp with
  | zero => exact List.zipWith_nil_right.symm
  | succ n ih => rw [ctrChunks, ctrKeystream, xorBytes_append_right, blockBytes_length, ih]

theorem ctrCrypt_ctrCrypt (rk : Schedule) (c : Counter) (inp : List Byte) :
    (ctrCrypt rk c (ctrCrypt rk c inp).1).1 = inp := by
  rw [ctrCrypt, ctrCrypt_length, ctrCrypt, ctrChunks_eq_xorBytes, ctrChunks_eq_xorBytes]
  apply xorBytes_xorBytes_cancel
  rw [ctrKeystream_length]
  omega

/-! The obligations. -/

/-- Settles O38: both directions are `ecbBlocks`, whose output block i is the function of input block i. -/
theorem ecbBlocksAreIndependent : Obligations.EcbBlocksAreIndependent := fun rk inp h =>
  ⟨ecbEncrypt_length rk h, ecbDecrypt_length rk h, fun _ hi =>
    ⟨blockNo_ecbBlocks (cipher rk) hi inp, blockNo_ecbBlocks (invCipher rk) hi inp⟩⟩

/-- Settles O44: ECB and CBC because InvCipher undoes Cipher, by induction on the blocks; CTR because both runs XOR the
same keystream. -/
theorem decryptionInvertsEncryption : Obligations.DecryptionInvertsEncryption := fun rk iv c inp =>
  ⟨fun h => ⟨ecbDecrypt_ecbEncrypt rk h, cbcDecrypt_cbcEncrypt rk iv h⟩, ctrCrypt_ctrCrypt rk c inp⟩

end Sys2Proof.Machine
end

section
/-! The statements of spec/46_cbc.md: the chain of each CBC loop, its continuation from the last ciphertext block, and
how far a change of one plaintext block reaches. -/

namespace Sys2Proof.Machine

/-! XOR with one block, and the cipher after it, lose nothing of the other block. -/

theorem xorBlock_comm (a b : Block) : xorBlock a b = xorBlock b a := by
  simp only [xorBlock, BitVec.xor_comm]

theorem cipher_xorBlock_left_inj (rk : Schedule) {a b : Block} (p : Block) :
    cipher rk (xorBlock a p) = cipher rk (xorBlock b p) ↔ a = b :=
  have hxor : Function.LeftInverse (xorBlock · p) (xorBlock · p) := (xorBlock_xorBlock_cancel · p)
  ((invCipher_cipher rk).injective.comp hxor.injective).eq_iff

theorem cipher_xorBlock_right_inj (rk : Schedule) (p : Block) {a b : Block} :
    cipher rk (xorBlock p a) = cipher rk (xorBlock p b) ↔ a = b := by
  rw [xorBlock_comm p a, xorBlock_comm p b, cipher_xorBlock_left_inj]

/-! The block that block i is chained to. -/

/-- The ciphertext block before block i of `bs`, for block 0 the initial block (R280, R281). -/
def chainedBlock (iv : Block) (bs : List Byte) (i : Nat) : Block := if i = 0 then iv else blockNo bs (i - 1)

theorem chainedBlock_zero (iv : Block) (bs : List Byte) : chainedBlock iv bs 0 = iv := rfl

theorem chainedBlock_succ (iv : Block) (bs : List Byte) (i : Nat) : chainedBlock iv bs (i + 1) = blockNo bs i := rfl

theorem chainedBlock_of_pos (iv : Block) (bs : List Byte) {i : Nat} (h : 0 < i) :
    chainedBlock iv bs i = blockNo bs (i - 1) := if_neg h.ne'

/-- Past the first block, the chain is that of the rest, begun at the first block. -/
theorem chainedBlock_succ_eq_drop (iv : Block) (bs : List Byte) (i : Nat) :
    chainedBlock iv bs (i + 1) = chainedBlock (blockOfBytes (bs.take 16)) (bs.drop 16) i := by
  cases i with
  | zero => rfl
  | succ i => rw [chainedBlock_succ, chainedBlock_succ, blockNo_succ]

theorem chainedBlock_blockBytes_append (iv b : Block) (bs : List Byte) (i : Nat) :
    chainedBlock iv (blockBytes b ++ bs) (i + 1) = chainedBlock b bs i := by
  rw [chainedBlock_succ_eq_drop, take_blockBytes_append, drop_blockBytes_append, blockOfBytes_blockBytes]

theorem chainedBlock_congr (iv : Block) {bs cs : List Byte} {i : Nat} (h : ∀ k < i, blockNo bs k = blockNo cs k) :
    chainedBlock iv bs i = chainedBlock iv cs i := by
  cases i with
  | zero => rfl
  | succ i => exact h i i.lt_succ_self

/-! The chain equation of each loop. -/

theorem blockNo_cbcEncBlocks (rk : Schedule) {n i : Nat} (h : i < n) (prev : Block) (inp : List Byte) :
    blockNo (cbcEncBlocks rk n prev inp) i =
      cipher rk (xorBlock (blockNo inp i) (chainedBlock prev (cbcEncBlocks rk n prev inp) i)) := by
  induction n generalizing i prev inp with
  | zero => omega
  | succ n ih =>
    cases i with
    | zero => rw [cbcEncBlocks, blockNo_blockBytes_append_zero, chainedBlock_zero, blockNo_zero]
    | succ i =>
      rw [cbcEncBlocks, blockNo_blockBytes_append_succ, chainedBlock_blockBytes_append, ih (by omega), blockNo_succ]

theorem blockNo_cbcDecBlocks (rk : Schedule) {n i : Nat} (h : i < n) (prev : Block) (inp : List Byte) :
    blockNo (cbcDecBlocks rk n prev inp) i =
      xorBlock (invCipher rk (blockNo inp i)) (chainedBlock prev inp i) := by
  induction n generalizing i prev inp with
  | zero => omega
  | succ n ih =>
    cases i with
    | zero => rw [cbcDecBlocks, blockNo_blockBytes_append_zero, chainedBlock_zero, blockNo_zero]
    | succ i =>
      rw [cbcDecBlocks, blockNo_blockBytes_append_succ, ih (by omega), blockNo_succ, chainedBlock_succ_eq_drop]

/-! A loop over two parts: the second starts from the block that its first block is chained to. -/

theorem cbcEncBlocks_append (rk : Schedule) {m : Nat} (n : Nat) (prev : Block) {x : List Byte} (y : List Byte)
    (hx : x.length = 16 * m) :
    cbcEncBlocks rk (m + n) prev (x ++ y) = cbcEncBlocks rk m prev x ++
      cbcEncBlocks rk n (chainedBlock prev (cbcEncBlocks rk m prev x) m) y := by
  induction m generalizing prev x with
  | zero => rw [List.length_eq_zero_iff.1 hx, Nat.zero_add]; rfl
  | succ m ih =>
    have hrest : (x.drop 16).length = 16 * m := by rw [List.length_drop]; omega
    have hle : 16 ≤ x.length := by omega
    rw [Nat.add_right_comm, cbcEncBlocks, cbcEncBlocks, List.take_append_of_le_length hle,
      List.drop_append_of_le_length hle, ih _ hrest, chainedBlock_blockBytes_append, List.append_assoc]

theorem cbcDecBlocks_append (rk : Schedule) {m : Nat} (n : Nat) (prev : Block) {x : List Byte} (y : List Byte)
    (hx : x.length = 16 * m) :
    cbcDecBlocks rk (m + n) prev (x ++ y) =
      cbcDecBlocks rk m prev x ++ cbcDecBlocks rk n (chainedBlock prev x m) y := by
  induction m generalizing prev x with
  | zero => rw [List.length_eq_zero_iff.1 hx, Nat.zero_add]; rfl
  | succ m ih =>
    have hrest : (x.drop 16).length = 16 * m := by rw [List.length_drop]; omega
    have hle : 16 ≤ x.length := by omega
    rw [Nat.add_right_comm, cbcDecBlocks, cbcDecBlocks, List.take_append_of_le_length hle,
      List.drop_append_of_le_length hle, ih _ hrest, chainedBlock_succ_eq_drop, List.append_assoc]

/-! Two plaintexts under one key and one initial block. -/

/-- Ciphertext block i depends on the plaintext blocks up to i only. -/
theorem blockNo_cbcEncBlocks_congr (rk : Schedule) {n i : Nat} (hi : i < n) (prev : Block) {x y : List Byte}
    (h : ∀ k ≤ i, blockNo x k = blockNo y k) :
    blockNo (cbcEncBlocks rk n prev x) i = blockNo (cbcEncBlocks rk n prev y) i := by
  induction i using Nat.strong_induction_on with
  | _ i ih =>
    have hchain : ∀ k < i, blockNo (cbcEncBlocks rk n prev x) k = blockNo (cbcEncBlocks rk n prev y) k :=
      fun k hk => ih k hk (hk.trans hi) fun k' hk' => h k' (hk'.trans hk.le)
    rw [blockNo_cbcEncBlocks rk hi, blockNo_cbcEncBlocks rk hi, h i le_rfl, chainedBlock_congr prev hchain]

/-- Where the plaintexts first differ, the same chained block meets two plaintext blocks. -/
theorem blockNo_cbcEncBlocks_ne_of_first (rk : Schedule) {n i : Nat} (hi : i < n) (prev : Block) {x y : List Byte}
    (hne : blockNo x i ≠ blockNo y i) (h : ∀ k < i, blockNo x k = blockNo y k) :
    blockNo (cbcEncBlocks rk n prev x) i ≠ blockNo (cbcEncBlocks rk n prev y) i := by
  have hchain : ∀ k < i, blockNo (cbcEncBlocks rk n prev x) k = blockNo (cbcEncBlocks rk n prev y) k :=
    fun k hk => blockNo_cbcEncBlocks_congr rk (hk.trans hi) prev fun k' hk' => h k' (hk'.trans_lt hk)
  rwa [blockNo_cbcEncBlocks rk hi, blockNo_cbcEncBlocks rk hi, chainedBlock_congr prev hchain, Ne,
    cipher_xorBlock_left_inj]

/-- A difference of ciphertext block i reaches the next block, where the plaintext blocks are the same. -/
theorem blockNo_cbcEncBlocks_succ_ne (rk : Schedule) {n i : Nat} (hi : i + 1 < n) (prev : Block) {x y : List Byte}
    (h : blockNo x (i + 1) = blockNo y (i + 1))
    (hne : blockNo (cbcEncBlocks rk n prev x) i ≠ blockNo (cbcEncBlocks rk n prev y) i) :
    blockNo (cbcEncBlocks rk n prev x) (i + 1) ≠ blockNo (cbcEncBlocks rk n prev y) (i + 1) := by
  rwa [blockNo_cbcEncBlocks rk hi, blockNo_cbcEncBlocks rk hi, h, Ne, cipher_xorBlock_right_inj]

/-! The obligations. -/

/-- Settles O39: the chain equation of each loop, at the block count of the input. -/
theorem cbcBlocksChain : Obligations.CbcBlocksChain := fun rk iv inp h =>
  ⟨cbcEncrypt_length rk iv h, cbcDecrypt_length rk iv h, fun _ hi =>
    ⟨blockNo_cbcEncBlocks rk hi iv inp, blockNo_cbcDecBlocks rk hi iv inp⟩⟩

/-- Settles O40: each loop over the two parts, whose first part has a last block to chain to. -/
theorem cbcContinuesFromLastBlock : Obligations.CbcContinuesFromLastBlock := by
  intro rk iv x y hx hpos _
  have hlen : x.length = 16 * (x.length / 16) := by omega
  have hblocks : (x ++ y).length / 16 = x.length / 16 + y.length / 16 := by rw [List.length_append]; omega
  have hlast : 0 < x.length / 16 := by omega
  constructor
  · rw [cbcEncrypt, hblocks, cbcEncBlocks_append rk _ iv y hlen, chainedBlock_of_pos iv _ hlast]
    rfl
  · rw [cbcDecrypt, hblocks, cbcDecBlocks_append rk _ iv y hlen, chainedBlock_of_pos iv _ hlast]
    rfl

/-- Settles O41: the ciphertexts agree before block i and differ at it, and each difference reaches the next block, by
induction from i on. -/
theorem cbcDiffusion : Obligations.CbcDiffusion := by
  intro rk iv x y i hlen _ hi hne hsame j hj
  rw [cbcEncrypt, cbcEncrypt, ← hlen]
  constructor
  · intro hji
    exact blockNo_cbcEncBlocks_congr rk hj iv fun k hk => hsame k (by omega) (by omega)
  · intro hij
    induction j, hij using Nat.le_induction with
    | base => exact blockNo_cbcEncBlocks_ne_of_first rk hi iv hne fun k hk => hsame k (by omega) hk.ne
    | succ j hij ih => exact blockNo_cbcEncBlocks_succ_ne rk hj iv (hsame _ hj (by omega)) (ih (by omega))

end Sys2Proof.Machine
end

section
/-! The statements of spec/47_ctr.md: each byte of a CTR stream, the counter after it, and a stream in two parts. -/

namespace Sys2Proof.Machine

/-! The keystream, byte by byte (R300, R301). -/

theorem counter_succ_add (c : Counter) (k : Nat) : c + 1 + BitVec.ofNat 128 k = c + BitVec.ofNat 128 (k + 1) := by
  rw [Nat.add_comm, BitVec.ofNat_add, BitVec.add_assoc]
  rfl

theorem ctrKeystream_getD (rk : Schedule) {n j : Nat} (h : j < 16 * n) (c : Counter) :
    (ctrKeystream rk n c).getD j 0 = byteAt (cipher rk (toBE16 (c + BitVec.ofNat 128 (j / 16)))) (j % 16) := by
  induction n generalizing j c with
  | zero => omega
  | succ n ih =>
    rw [ctrKeystream]
    obtain hfirst | hlater := Nat.lt_or_ge j 16
    · rw [List.getD_append _ _ _ _ (by rwa [blockBytes_length]), blockBytes_getD, Nat.div_eq_of_lt hfirst,
        Nat.mod_eq_of_lt hfirst, BitVec.add_zero]
    · rw [List.getD_append_right _ _ _ _ (by rwa [blockBytes_length]), blockBytes_length, ih (by omega),
        counter_succ_add, ← Nat.div_eq_sub_div (by decide) hlater, ← Nat.mod_eq_sub_mod hlater]

theorem xorBytes_getD {as ks : List Byte} {j : Nat} (hj : j < as.length) (hlen : as.length ≤ ks.length) :
    (xorBytes as ks).getD j 0 = as.getD j 0 ^^^ ks.getD j 0 := by
  simp [xorBytes, List.getD_eq_getElem?_getD, hj, hj.trans_le hlen]

theorem ctrCrypt_getD (rk : Schedule) (c : Counter) {inp : List Byte} {j : Nat} (h : j < inp.length) :
    (ctrCrypt rk c inp).1.getD j 0 =
      inp.getD j 0 ^^^ byteAt (cipher rk (toBE16 (c + BitVec.ofNat 128 (j / 16)))) (j % 16) := by
  have hlen : inp.length ≤ 16 * ((inp.length + 15) / 16) := by omega
  rw [ctrCrypt, ctrChunks_eq_xorBytes, xorBytes_getD h (by rwa [ctrKeystream_length]),
    ctrKeystream_getD rk (h.trans_le hlen)]

/-! The counter (R304, R305). -/

theorem ctrChunks_counter (rk : Schedule) (n : Nat) (c : Counter) (inp : List Byte) :
    (ctrChunks rk n c inp).2 = c + BitVec.ofNat 128 n := by
  induction n generalizing c inp with
  | zero => exact (BitVec.add_zero c).symm
  | succ n ih => rw [ctrChunks, ih, counter_succ_add]

/-! A stream in two parts (R306). -/

/-- A loop over two parts: the second starts from the counter that the first, of whole blocks, leaves. -/
theorem ctrChunks_append (rk : Schedule) {m : Nat} (n : Nat) (c : Counter) {x : List Byte} (y : List Byte)
    (hx : x.length = 16 * m) :
    ctrChunks rk (m + n) c (x ++ y) =
      ((ctrChunks rk m c x).1 ++ (ctrChunks rk n (ctrChunks rk m c x).2 y).1,
        (ctrChunks rk n (ctrChunks rk m c x).2 y).2) := by
  induction m generalizing c x with
  | zero => rw [List.length_eq_zero_iff.1 hx, Nat.zero_add]; rfl
  | succ m ih =>
    have hrest : (x.drop 16).length = 16 * m := by rw [List.length_drop]; omega
    have hle : 16 ≤ x.length := by omega
    rw [Nat.add_right_comm, ctrChunks, ctrChunks, List.take_append_of_le_length hle,
      List.drop_append_of_le_length hle, ih _ hrest, List.append_assoc]

theorem ctrCrypt_append (rk : Schedule) (c : Counter) {x : List Byte} (y : List Byte) (hx : x.length % 16 = 0) :
    ctrCrypt rk c (x ++ y) =
      ((ctrCrypt rk c x).1 ++ (ctrCrypt rk (ctrCrypt rk c x).2 y).1, (ctrCrypt rk (ctrCrypt rk c x).2 y).2) := by
  have hblocks : ((x ++ y).length + 15) / 16 = (x.length + 15) / 16 + (y.length + 15) / 16 := by
    rw [List.length_append]; omega
  rw [ctrCrypt, hblocks, ctrChunks_append rk _ c y (by omega)]
  rfl

/-! The obligations. -/

/-- Settles O42: the output is the input XOR the keystream (`ctrChunks_eq_xorBytes`), and each chunk adds 1 to the
counter. -/
theorem ctrStreamBytes : Obligations.CtrStreamBytes := by
  intro rk c inp
  refine ⟨ctrCrypt_length rk c inp, fun _ h => ctrCrypt_getD rk c h, ?_⟩
  rw [ctrCrypt, ctrChunks_counter, BitVec.toNat_add, BitVec.toNat_ofNat, Nat.add_mod_mod]

/-- Settles O43: the chunks of the first part are whole blocks, so the loop goes on with the second part's. -/
theorem ctrStreamSplits : Obligations.CtrStreamSplits := fun rk c _ y hx => by
  rw [ctrCrypt_append rk c y hx]
  exact ⟨rfl, rfl⟩

end Sys2Proof.Machine
end

section
/-! The statements of spec/60_exceptions.md: the error that a command reports, and what a failed command leaves. -/

namespace Sys2Proof.Machine

/-- Each check that raises one of the three length errors gives it the latched LEN; the other errors carry 0 (R325). -/
theorem errorLength_of_mem_checks {i : Instr} {s : State} {l : Latch} {b : Bool} {e : CmdError}
    (h : (b, e) ∈ checks i s l) : e.length = if e.code.toNat ≤ 3 then l.len else 0 := by
  cases e
  case illegalCommand | noKey | wrongMode | range | overlap => rfl
  case invalidKeyLength n | invalidIvLength n | invalidInputLength n =>
    change n = l.len
    cases i <;> simp_all [checks]

/-- Settles O13: the state named is that of `raise Error(e)` for the first failing check's e; with none, the command ends
with its effect, which keeps the error fields. -/
theorem firstFailingCheckIsReported : Obligations.FirstFailingCheckIsReported := by
  intro i s l hl
  constructor
  · intro e hfind
    have hfirst : firstFailure i s l = some e := by rw [firstFailure, hfind]; rfl
    rw [exec_of_firstFailure hl hfirst]
    cases e <;> rfl
  · intro hp
    exact ⟨_, exec_of_passes hl hp, rfl, effect_err i s l, effect_errcode i s l, effect_errlen i s l⟩

/-- Settles O14: a completed command keeps ERR = 0, so the command ended as `raise Error(e)` leaves it, for an e among its
checks. -/
theorem failedCommandChangesOnlyErrorFields : Obligations.FailedCommandChangesOnlyErrorFields := by
  intro i s t l hl herr hexec hterr
  obtain ⟨l', hl', ⟨e, he, rfl⟩ | ⟨-, rfl⟩⟩ := exec_next hexec
  · obtain rfl : l = l' := Option.some.inj (hl.symm.trans hl')
    obtain ⟨hpos, hle⟩ := code_bounds e
    exact ⟨rfl, hpos, hle, errorLength_of_mem_checks (mem_checks_of_firstFailure he)⟩
  · simp [herr] at hterr

end Sys2Proof.Machine
end

section
/-! The statements of spec/70_reset_and_hazards.md: the state after the reset event, and the invariant at reset. -/

namespace Sys2Proof.Machine

/-! The reset values of R361. -/

theorem byteAt_zero (i : Nat) : byteAt Block.zero i = 0 := by
  rw [byteAt, Block.zero, Vector.getElem?_replicate]
  split <;> rfl

theorem roundKeyAt_zero (r : Nat) : roundKeyAt Schedule.zero r = Block.zero := by
  rw [roundKeyAt, Schedule.zero, Vector.getElem?_replicate]
  split <;> rfl

theorem step_reset {s : State} {es : List Event} (h : s.pending = .reset :: es) :
    step s = .next (resetEvent { s with pending := es }) := by
  unfold step
  rw [h]

theorem status_resetEvent (s : State) : (resetEvent s).status = 0 := by
  simp [State.status, bitWord, Mode.code]

theorem resetWith_inv {c : Config} (h : c.legal = true) : (State.resetWith c).Inv where
  legal := h
  keyed := fun hm => absurd rfl hm
  schedule := nofun
  unkeyed := fun _ => rfl
  resultByte := Nat.zero_lt_succ _
  quiet := fun _ => ⟨rfl, rfl⟩
  coded := nofun
  lengthed := fun hl => absurd rfl hl
  memoryForm := List.Pairwise.nil
  memoryInside := nofun
  drawn := Nat.zero_lt_one
  latched := nofun
  disturbed := nofun

/-! The obligations. -/

/-- Settles O57: the step is `resetEvent`, whose fields are the reset values. -/
theorem resetEventGivesResetState : Obligations.ResetEventGivesResetState := by
  intro s es hp
  refine ⟨_, step_reset hp, fun r _ i _ => ?_, rfl, rfl, fun i _ => byteAt_zero i, fun i _ => byteAt_zero i, rfl, rfl,
    rfl, rfl, rfl, rfl, rfl, rfl, rfl, rfl, rfl, status_resetEvent _, rfl, fun _ => rfl, rfl, rfl, rfl, rfl⟩
  rw [resetEvent_rk, roundKeyAt_zero, byteAt_zero]

/-- Settles O58: the parameters of `State.reset` are legal. -/
theorem resetMeetsInvariant : Obligations.ResetMeetsInvariant :=
  ⟨resetWith_inv (by decide), fun _ => resetWith_inv⟩

end Sys2Proof.Machine
end

section
/-! The completion of a running command when no event is left (spec/20_memory.md rules R80, R81 and R89). -/

namespace Sys2Proof.Machine

theorem exec_pending {i : Instr} {s t : State} (ht : exec i s = .next t) : t.pending = s.pending := by
  obtain ⟨l, -, ⟨e, -, rfl⟩ | ⟨-, rfl⟩⟩ := exec_next ht <;> simp

theorem settle_pending (l : Latch) (i : Option Instr) (t : State) : (settle l i t).pending = t.pending := by
  unfold settle
  split <;> rfl

/-- The engine's step ends a running command and uses up no event. -/
theorem engineStep_completes {s : State} {l : Latch} (hl : s.running = some l) :
    ∃ t, engineStep s = .next t ∧ t.running = none ∧ t.pending = s.pending := by
  cases hd : decode l.cmd with
  | error e =>
    exact ⟨_, engineStep_illegal hl hd, by rw [settle_running, failed_running], by rw [settle_pending, failed_pending]⟩
  | ok i =>
    obtain ⟨t, ht⟩ := exec_isNext hl i
    refine ⟨settle l (some i) t, by rw [engineStep_command hl hd, ht, mapNext_next], ?_, ?_⟩
    · rw [settle_running, exec_running ht]
    · rw [settle_pending, exec_pending ht]

theorem step_of_pending_nil {s : State} (h : s.pending = []) : step s = engineStep s := by
  unfold step
  rw [h]

/-- Settles O10: at the end of the list the engine's step is taken; it ends a running command, and an idle engine's is
none. -/
theorem runningCommandCompletes : Obligations.RunningCommandCompletes := by
  intro s hp
  rw [step_of_pending_nil hp]
  constructor
  · intro hb
    obtain ⟨l, hl⟩ := (busy_eq_true_iff s).1 hb
    obtain ⟨t, hstep, hrun, hpend⟩ := engineStep_completes hl
    exact ⟨t, hstep, (busy_eq_false_iff t).2 hrun, hpend.trans hp⟩
  · intro hb
    exact engineStep_idle ((busy_eq_false_iff s).1 hb)

end Sys2Proof.Machine
end
